-- ==== Sys2Proof/Word.lean ====
section
/-! DEFINITION. The word types (spec/00_scope.md R6, R7): a byte is 8 bits, a word 16, a doubleword 32. -/

namespace Sys2Proof

/-- A byte (R7). -/
abbrev Byte := BitVec 8

/-- A word in the source's sense: 16 bits (R7). -/
abbrev Word16 := BitVec 16

/-- A doubleword: 32 bits, the width of a general register and of an address (R4, R7). -/
abbrev DWord := BitVec 32

end Sys2Proof
end

