-- ==== Sys2Proof/Config.lean ====
section
/-! DEFINITION. What an implementation, a board or the moment of reset fixes (spec/00_scope.md R4), and the one source of free values. -/

namespace Sys2Proof

/-- DESIGN CHOICE (log 6). The free values: the n-th value drawn for a result the spec calls undefined. It has no body, so nothing can be
proved of any of its values. State's counter `freeCount` supplies n. -/
opaque Config.freeWord : Nat → DWord

/-- DESIGN CHOICE (log 1): what a byte of memory that no one has placed or written reads as. R310 leaves it arbitrary. -/
def Config.unlistedByte : Byte := 0x00

/-- DESIGN CHOICE (log 4): RESET_CS_SELECTOR (R4, R45); the digits the source prints. -/
def Config.resetCsSelector : Word16 := 0x0000

/-- DESIGN CHOICE (log 4): STEPPING_ID (R4, R41). -/
def Config.steppingId : Byte := 0x00

/-- DESIGN CHOICE (log 4): SELFTEST_REQUESTED with SELFTEST_RESULT (R4, R40); none is "not requested". -/
def Config.selftest : Option DWord := none

/-- DESIGN CHOICE (log 4): COPROCESSOR_IS_80387 (R4, R42). -/
def Config.coprocessorIs80387 : Bool := false

end Sys2Proof
end

