-- ==== Sys2Proof/Syntax.lean ====
section
/-! DEFINITION. The instructions as syntax: one constructor of `Instr` for each row of spec/opcode_table.json (spec/30_encoding.md R107),
with the registers, operand shapes, prefixes and sizes of R101 to R106. -/

namespace Sys2Proof

/-- The eight general registers, in encoding order (10_state.md R20, R103). -/
inductive Reg | eax | ecx | edx | ebx | esp | ebp | esi | edi
  deriving DecidableEq, Repr

/-- The eight byte registers, in encoding order (10_state.md R21, R103). -/
inductive Reg8 | al | cl | dl | bl | ah | ch | dh | bh
  deriving DecidableEq, Repr

/-- The six segment registers, in encoding order (10_state.md R24, R103). -/
inductive SReg | es | cs | ss | ds | fs | gs
  deriving DecidableEq, Repr

/-- An operand size or address size (R102). -/
inductive Size | s16 | s32
  deriving DecidableEq, Repr

/-- The prefix bytes of R101. -/
inductive Pfx
  | opSize
  | addrSize
  | seg (s : SReg)
  | rep
  deriving DecidableEq, Repr

/-- What stands before the opcode: the prefix bytes in program order, and the operand size and address size that they and the default
of the code segment give (R101, R102). -/
structure Hdr where
  pfx : List Pfx
  os : Size
  as : Size
  deriving DecidableEq, Repr

/-- The displacement of a ModRM operand: none, 8 bits (sign-extended), or the full address size (R104 to R106). -/
inductive Disp (w : Nat)
  | zero
  | d8 (d : BitVec 8)
  | full (d : BitVec w)
  deriving DecidableEq, Repr

/-- The base column of the 16-bit addressing table, in encoding order (R104). -/
inductive Base16 | bxSi | bxDi | bpSi | bpDi | si | di | bp | bx
  deriving DecidableEq, Repr

/-- A memory operand (R104, R105). -/
inductive Mem
  | direct16 (d : BitVec 16)
  | based16 (b : Base16) (d : Disp 16)
  | direct32 (d : BitVec 32)
  | based32 (r : Reg) (d : Disp 32)
  | sib (scale : BitVec 2) (index : Option Reg) (base : Reg) (d : Disp 32)
  | sibNoBase (scale : BitVec 2) (index : Option Reg) (d : BitVec 32)
  deriving DecidableEq, Repr

/-- A register-or-memory operand (R103); `ρ` is the kind of register. -/
inductive RM (ρ : Type)
  | reg (r : ρ)
  | mem (m : Mem)
  deriving DecidableEq, Repr

/-- The instructions. Immediates, relative displacements and far offsets whose width follows the operand size, and `moffs` offsets whose
width follows the address size, are held in 32 bits; `WellFormed` says that a 16-bit one has its upper half zero. -/
inductive Instr
  /-- NOP, 90 (R190) -/
  | nop (h : Hdr)
  /-- MOV r8, imm8, B0+r (R191) -/
  | movR8Imm8 (h : Hdr) (r : Reg8) (imm : BitVec 8)
  /-- MOV r16/r32, imm16/imm32, B8+r (R192) -/
  | movRImm (h : Hdr) (r : Reg) (imm : BitVec 32)
  /-- MOV r/m8, imm8, C6 /0 (R193) -/
  | movRm8Imm8 (h : Hdr) (rm : RM Reg8) (imm : BitVec 8)
  /-- MOV r/m16/32, imm16/32, C7 /0 (R193) -/
  | movRmImm (h : Hdr) (rm : RM Reg) (imm : BitVec 32)
  /-- MOV r/m8, r8, 88 /r (R194) -/
  | movRm8R8 (h : Hdr) (rm : RM Reg8) (r : Reg8)
  /-- MOV r/m16/32, r16/32, 89 /r (R194) -/
  | movRmR (h : Hdr) (rm : RM Reg) (r : Reg)
  /-- MOV r8, r/m8, 8A /r (R195) -/
  | movR8Rm8 (h : Hdr) (r : Reg8) (rm : RM Reg8)
  /-- MOV r16/32, r/m16/32, 8B /r (R195) -/
  | movRRm (h : Hdr) (r : Reg) (rm : RM Reg)
  /-- MOV AL, moffs8, A0 (R196) -/
  | movAlMoffs (h : Hdr) (off : BitVec 32)
  /-- MOV AX/EAX, moffs16/32, A1 (R196) -/
  | movAxMoffs (h : Hdr) (off : BitVec 32)
  /-- MOV moffs8, AL, A2 (R196) -/
  | movMoffsAl (h : Hdr) (off : BitVec 32)
  /-- MOV moffs16/32, AX/EAX, A3 (R196) -/
  | movMoffsAx (h : Hdr) (off : BitVec 32)
  /-- MOV Sreg, r/m16, 8E /r (R174, R175) -/
  | movSregRm (h : Hdr) (sr : SReg) (rm : RM Reg)
  /-- XOR AL, imm8, 34 (R197) -/
  | xorAlImm8 (h : Hdr) (imm : BitVec 8)
  /-- XOR r/m16/32, r16/32, 31 /r (R198) -/
  | xorRmR (h : Hdr) (rm : RM Reg) (r : Reg)
  /-- XOR r16/32, r/m16/32, 33 /r (R198) -/
  | xorRRm (h : Hdr) (r : Reg) (rm : RM Reg)
  /-- INC r16/r32, 40+r (R199) -/
  | incR (h : Hdr) (r : Reg)
  /-- DEC r16/r32, 48+r (R200) -/
  | decR (h : Hdr) (r : Reg)
  /-- SHL r/m16/32, imm8, C1 /4 (R201) -/
  | shlRmImm8 (h : Hdr) (rm : RM Reg) (imm : BitVec 8)
  /-- SHR r/m16/32, 1, D1 /5 (R202) -/
  | shrRm1 (h : Hdr) (rm : RM Reg)
  /-- SHR r/m16/32, imm8, C1 /5 (R203) -/
  | shrRmImm8 (h : Hdr) (rm : RM Reg) (imm : BitVec 8)
  /-- OUT imm8, AL, E6 (R204) -/
  | outImm8Al (h : Hdr) (port : BitVec 8)
  /-- CLI, FA (R205) -/
  | cli (h : Hdr)
  /-- CLD, FC (R206) -/
  | cld (h : Hdr)
  /-- MOVS m8, m8, A4 (R207) -/
  | movsB (h : Hdr)
  /-- MOVS m16/32, m16/32, A5 (R207) -/
  | movsW (h : Hdr)
  /-- REP before MOVS, F3 with A4 (wide = false) or A5 (wide = true) (R208) -/
  | repMovs (h : Hdr) (wide : Bool)
  /-- JMP rel8, EB (R130) -/
  | jmpRel8 (h : Hdr) (rel : BitVec 8)
  /-- JMP rel16/rel32, E9 (R131) -/
  | jmpRel (h : Hdr) (rel : BitVec 32)
  /-- JMP ptr16:16 / ptr16:32, EA (R132) -/
  | jmpFar (h : Hdr) (off : BitVec 32) (sel : BitVec 16)
  /-- JMP m16:16 / m16:32, FF /5 (R133) -/
  | jmpFarMem (h : Hdr) (m : Mem)
  /-- CALL ptr16:16 / ptr16:32, 9A (R134) -/
  | callFar (h : Hdr) (off : BitVec 32) (sel : BitVec 16)
  /-- CALL m16:16 / m16:32, FF /3 (R134) -/
  | callFarMem (h : Hdr) (m : Mem)
  /-- JNZ rel8, 75 (R135) -/
  | jnzRel8 (h : Hdr) (rel : BitVec 8)
  /-- HLT, F4 (R136) -/
  | hlt (h : Hdr)
  /-- MOV r32, CR0, 0F 20 with reg 0 (R150) -/
  | movRCr0 (h : Hdr) (r : Reg)
  /-- MOV r32, CR3, 0F 20 with reg 3 (R152) -/
  | movRCr3 (h : Hdr) (r : Reg)
  /-- MOV CR0, r32, 0F 22 with reg 0 (R151) -/
  | movCr0R (h : Hdr) (r : Reg)
  /-- MOV CR3, r32, 0F 22 with reg 3 (R153) -/
  | movCr3R (h : Hdr) (r : Reg)
  /-- MOV r32, TR6, 0F 24 with reg 6 (R230) -/
  | movRTr6 (h : Hdr) (r : Reg)
  /-- MOV r32, TR7, 0F 24 with reg 7 (R231) -/
  | movRTr7 (h : Hdr) (r : Reg)
  /-- MOV TR6, r32, 0F 26 with reg 6 (R233) -/
  | movTr6R (h : Hdr) (r : Reg)
  /-- MOV TR7, r32, 0F 26 with reg 7 (R232) -/
  | movTr7R (h : Hdr) (r : Reg)
  /-- LGDT m16&32, 0F 01 /2 (R171) -/
  | lgdt (h : Hdr) (m : Mem)
  /-- LIDT m16&32, 0F 01 /3 (R170) -/
  | lidt (h : Hdr) (m : Mem)
  /-- LTR r/m16, 0F 00 /3 (R172) -/
  | ltr (h : Hdr) (rm : RM Reg)
  /-- LAR r16/32, r/m16/32, 0F 02 /r (R173) -/
  | lar (h : Hdr) (r : Reg) (rm : RM Reg)
  deriving DecidableEq, Repr

/-- The prefixes and sizes of an instruction. -/
def Instr.hdr : Instr → Hdr
  | .nop h => h
  | .movR8Imm8 h _ _ => h
  | .movRImm h _ _ => h
  | .movRm8Imm8 h _ _ => h
  | .movRmImm h _ _ => h
  | .movRm8R8 h _ _ => h
  | .movRmR h _ _ => h
  | .movR8Rm8 h _ _ => h
  | .movRRm h _ _ => h
  | .movAlMoffs h _ => h
  | .movAxMoffs h _ => h
  | .movMoffsAl h _ => h
  | .movMoffsAx h _ => h
  | .movSregRm h _ _ => h
  | .xorAlImm8 h _ => h
  | .xorRmR h _ _ => h
  | .xorRRm h _ _ => h
  | .incR h _ => h
  | .decR h _ => h
  | .shlRmImm8 h _ _ => h
  | .shrRm1 h _ => h
  | .shrRmImm8 h _ _ => h
  | .outImm8Al h _ => h
  | .cli h => h
  | .cld h => h
  | .movsB h => h
  | .movsW h => h
  | .repMovs h _ => h
  | .jmpRel8 h _ => h
  | .jmpRel h _ => h
  | .jmpFar h _ _ => h
  | .jmpFarMem h _ => h
  | .callFar h _ _ => h
  | .callFarMem h _ => h
  | .jnzRel8 h _ => h
  | .hlt h => h
  | .movRCr0 h _ => h
  | .movRCr3 h _ => h
  | .movCr0R h _ => h
  | .movCr3R h _ => h
  | .movRTr6 h _ => h
  | .movRTr7 h _ => h
  | .movTr6R h _ => h
  | .movTr7R h _ => h
  | .lgdt h _ => h
  | .lidt h _ => h
  | .ltr h _ => h
  | .lar h _ _ => h

end Sys2Proof
end

