-- ==== Sys2Proof/Machine/Bits.lean ====
section
/-! DEFINITION. Bit-field, byte-order and register-number helpers (spec/00_scope.md R6, 10_state.md R21, 20_memory.md R71, 30_encoding.md R103). -/

namespace Sys2Proof

/-- `old` with its low `w` bits replaced by `v`: a write to a narrower view of a register (R21). -/
def mergeLow (w : Nat) (old : DWord) (v : BitVec w) : DWord :=
  (old >>> w) <<< w ||| v.setWidth 32

/-- The little-endian value of some bytes, least significant byte first (R71). -/
def leValue : List Byte → Nat
  | [] => 0
  | b :: t => b.toNat + 256 * leValue t

/-- The low `n` bytes of a value, least significant byte first (R71). -/
def leBytes : Nat → Nat → List Byte
  | 0, _ => []
  | n + 1, v => BitVec.ofNat 8 v :: leBytes n (v / 256)

/-- Take `n` bytes off the front as a little-endian value; nothing when fewer are left. -/
def takeLe : Nat → List Byte → Option (Nat × List Byte)
  | 0, bs => some (0, bs)
  | _ + 1, [] => none
  | n + 1, b :: bs =>
    match takeLe n bs with
    | none => none
    | some (v, rest) => some (b.toNat + 256 * v, rest)

/-- A size in bits (R102). -/
def Size.bits : Size → Nat
  | .s16 => 16
  | .s32 => 32

/-- A size in bytes (R102). -/
def Size.bytes : Size → Nat
  | .s16 => 2
  | .s32 => 4

/-- The size that a default (true: 32) and the presence of the size's prefix give (R102). -/
def Size.resolve (default32 toggled : Bool) : Size :=
  if default32 != toggled then .s32 else .s16

/-- Register numbers (R103). -/
def Reg.num : Reg → BitVec 3
  | .eax => 0 | .ecx => 1 | .edx => 2 | .ebx => 3 | .esp => 4 | .ebp => 5 | .esi => 6 | .edi => 7

def Reg.ofNum (n : BitVec 3) : Reg :=
  match n.toNat with
  | 0 => .eax | 1 => .ecx | 2 => .edx | 3 => .ebx | 4 => .esp | 5 => .ebp | 6 => .esi | _ => .edi

/-- Byte-register numbers (R103). -/
def Reg8.num : Reg8 → BitVec 3
  | .al => 0 | .cl => 1 | .dl => 2 | .bl => 3 | .ah => 4 | .ch => 5 | .dh => 6 | .bh => 7

def Reg8.ofNum (n : BitVec 3) : Reg8 :=
  match n.toNat with
  | 0 => .al | 1 => .cl | 2 => .dl | 3 => .bl | 4 => .ah | 5 => .ch | 6 => .dh | _ => .bh

/-- The general register a byte register is part of (R21). -/
def Reg8.parent : Reg8 → Reg
  | .al => .eax | .cl => .ecx | .dl => .edx | .bl => .ebx
  | .ah => .eax | .ch => .ecx | .dh => .edx | .bh => .ebx

/-- The lowest bit of a byte register in its general register (R21). -/
def Reg8.shift : Reg8 → Nat
  | .al => 0 | .cl => 0 | .dl => 0 | .bl => 0
  | .ah => 8 | .ch => 8 | .dh => 8 | .bh => 8

/-- Segment-register numbers; 6 and 7 are reserved (R103). -/
def SReg.num : SReg → BitVec 3
  | .es => 0 | .cs => 1 | .ss => 2 | .ds => 3 | .fs => 4 | .gs => 5

def SReg.ofNum (n : BitVec 3) : Option SReg :=
  match n.toNat with
  | 0 => some .es | 1 => some .cs | 2 => some .ss | 3 => some .ds | 4 => some .fs | 5 => some .gs | _ => none

/-- The rm column of the 16-bit addressing table (R104). -/
def Base16.num : Base16 → BitVec 3
  | .bxSi => 0 | .bxDi => 1 | .bpSi => 2 | .bpDi => 3 | .si => 4 | .di => 5 | .bp => 6 | .bx => 7

def Base16.ofNum (n : BitVec 3) : Base16 :=
  match n.toNat with
  | 0 => .bxSi | 1 => .bxDi | 2 => .bpSi | 3 => .bpDi | 4 => .si | 5 => .di | 6 => .bp | _ => .bx

/-- A SIB index field: 4 means no index (R105). -/
def indexNum : Option Reg → BitVec 3
  | none => 4
  | some r => r.num

def indexOfNum (n : BitVec 3) : Option Reg :=
  if n = 4 then none else some (Reg.ofNum n)

/-- The last segment-override prefix, if any (R101; PRESUMED that the last of several holds, log 14). -/
def segOverride : List Pfx → Option SReg
  | [] => none
  | .seg s :: t => (segOverride t).or (some s)
  | .opSize :: t => segOverride t
  | .addrSize :: t => segOverride t
  | .rep :: t => segOverride t

end Sys2Proof
end

