-- ==== Sys2Proof/Machine/Length.lean ====
section
/-! DEFINITION. The length of an instruction in bytes: its prefixes, opcode, ModRM, SIB, displacement and immediate
(spec/30_encoding.md R100, R107). -/

namespace Sys2Proof

def Disp.length {w : Nat} : Disp w → Nat
  | .zero => 0
  | .d8 _ => 1
  | .full _ => w / 8

/-- The bytes of a memory operand: ModRM, SIB if any, displacement (R104, R105). -/
def Mem.length : Mem → Nat
  | .direct16 _ => 3
  | .based16 _ d => 1 + d.length
  | .direct32 _ => 5
  | .based32 _ d => 1 + d.length
  | .sib _ _ _ d => 2 + d.length
  | .sibNoBase _ _ _ => 6

def RM.length {ρ : Type} : RM ρ → Nat
  | .reg _ => 1
  | .mem m => m.length

/-- The bytes from the opcode on (R107). -/
def Instr.bodyLength : Instr → Nat
  | .nop _ => 1
  | .movR8Imm8 _ _ _ => 2
  | .movRImm h _ _ => 1 + h.os.bytes
  | .movRm8Imm8 _ rm _ => 1 + rm.length + 1
  | .movRmImm h rm _ => 1 + rm.length + h.os.bytes
  | .movRm8R8 _ rm _ => 1 + rm.length
  | .movRmR _ rm _ => 1 + rm.length
  | .movR8Rm8 _ _ rm => 1 + rm.length
  | .movRRm _ _ rm => 1 + rm.length
  | .movAlMoffs h _ => 1 + h.as.bytes
  | .movAxMoffs h _ => 1 + h.as.bytes
  | .movMoffsAl h _ => 1 + h.as.bytes
  | .movMoffsAx h _ => 1 + h.as.bytes
  | .movSregRm _ _ rm => 1 + rm.length
  | .xorAlImm8 _ _ => 2
  | .xorRmR _ rm _ => 1 + rm.length
  | .xorRRm _ _ rm => 1 + rm.length
  | .incR _ _ => 1
  | .decR _ _ => 1
  | .shlRmImm8 _ rm _ => 1 + rm.length + 1
  | .shrRm1 _ rm => 1 + rm.length
  | .shrRmImm8 _ rm _ => 1 + rm.length + 1
  | .outImm8Al _ _ => 2
  | .cli _ => 1
  | .cld _ => 1
  | .movsB _ => 1
  | .movsW _ => 1
  | .repMovs _ _ => 1
  | .jmpRel8 _ _ => 2
  | .jmpRel h _ => 1 + h.os.bytes
  | .jmpFar h _ _ => 1 + h.os.bytes + 2
  | .jmpFarMem _ m => 1 + m.length
  | .callFar h _ _ => 1 + h.os.bytes + 2
  | .callFarMem _ m => 1 + m.length
  | .jnzRel8 _ _ => 2
  | .hlt _ => 1
  | .movRCr0 _ _ => 3
  | .movRCr3 _ _ => 3
  | .movCr0R _ _ => 3
  | .movCr3R _ _ => 3
  | .movRTr6 _ _ => 3
  | .movRTr7 _ _ => 3
  | .movTr6R _ _ => 3
  | .movTr7R _ _ => 3
  | .lgdt _ m => 2 + m.length
  | .lidt _ m => 2 + m.length
  | .ltr _ rm => 2 + rm.length
  | .lar _ _ rm => 2 + rm.length

/-- The whole length: prefixes and body (R100). -/
def Instr.length (i : Instr) : Nat := i.hdr.pfx.length + i.bodyLength

end Sys2Proof
end

