-- ==== Sys2Proof/WellFormed.lean ====
section
/-! DEFINITION. Which instructions as syntax are instructions of the machine, for a code segment whose default size is 16 (`d32 = false`)
or 32 (spec/30_encoding.md R100 to R109). -/

namespace Sys2Proof

/-- A value held in 32 bits fits the size it is encoded in (R106). -/
def fits (sz : Size) (v : BitVec 32) : Bool :=
  match sz with
  | .s16 => decide (v.toNat < 65536)
  | .s32 => true

def Disp.isZero {w : Nat} : Disp w → Bool
  | .zero => true
  | .d8 _ => false
  | .full _ => false

/-- A memory operand is one that the addressing table of its address size can encode: [BP], [EBP] and a SIB base EBP need a displacement,
ESP is no plain base and no index (R104, R105). -/
def Mem.wf (as : Size) : Mem → Bool
  | .direct16 _ => as == .s16
  | .based16 b d => as == .s16 && !(b == .bp && d.isZero)
  | .direct32 _ => as == .s32
  | .based32 r d => as == .s32 && r != .esp && !(r == .ebp && d.isZero)
  | .sib _ i b d => as == .s32 && i != some .esp && !(b == .ebp && d.isZero)
  | .sibNoBase _ i _ => as == .s32 && i != some .esp

def RM.wf {ρ : Type} (as : Size) : RM ρ → Bool
  | .reg _ => true
  | .mem m => m.wf as

/-- The sizes are those the default and the prefixes give (R102); REP stands before MOVS only (R101, R208). -/
def Hdr.wf (d32 isRep : Bool) (h : Hdr) : Bool :=
  h.os == Size.resolve d32 (h.pfx.contains .opSize) && h.as == Size.resolve d32 (h.pfx.contains .addrSize) && h.pfx.contains .rep == isRep

/-- The operands can be encoded. -/
def Instr.operandsWf : Instr → Bool
  | .nop _ => true
  | .movR8Imm8 _ _ _ => true
  | .movRImm h _ imm => fits h.os imm
  | .movRm8Imm8 h rm _ => rm.wf h.as
  | .movRmImm h rm imm => rm.wf h.as && fits h.os imm
  | .movRm8R8 h rm _ => rm.wf h.as
  | .movRmR h rm _ => rm.wf h.as
  | .movR8Rm8 h _ rm => rm.wf h.as
  | .movRRm h _ rm => rm.wf h.as
  | .movAlMoffs h off => fits h.as off
  | .movAxMoffs h off => fits h.as off
  | .movMoffsAl h off => fits h.as off
  | .movMoffsAx h off => fits h.as off
  | .movSregRm h _ rm => rm.wf h.as
  | .xorAlImm8 _ _ => true
  | .xorRmR h rm _ => rm.wf h.as
  | .xorRRm h _ rm => rm.wf h.as
  | .incR _ _ => true
  | .decR _ _ => true
  | .shlRmImm8 h rm _ => rm.wf h.as
  | .shrRm1 h rm => rm.wf h.as
  | .shrRmImm8 h rm _ => rm.wf h.as
  | .outImm8Al _ _ => true
  | .cli _ => true
  | .cld _ => true
  | .movsB _ => true
  | .movsW _ => true
  | .repMovs _ _ => true
  | .jmpRel8 _ _ => true
  | .jmpRel h rel => fits h.os rel
  | .jmpFar h off _ => fits h.os off
  | .jmpFarMem h m => m.wf h.as
  | .callFar h off _ => fits h.os off
  | .callFarMem h m => m.wf h.as
  | .jnzRel8 _ _ => true
  | .hlt _ => true
  | .movRCr0 _ _ => true
  | .movRCr3 _ _ => true
  | .movCr0R _ _ => true
  | .movCr3R _ _ => true
  | .movRTr6 _ _ => true
  | .movRTr7 _ _ => true
  | .movTr6R _ _ => true
  | .movTr7R _ _ => true
  | .lgdt h m => m.wf h.as
  | .lidt h m => m.wf h.as
  | .ltr h rm => rm.wf h.as
  | .lar h _ rm => rm.wf h.as

/-- The one instruction that carries the REP prefix (R208). -/
def Instr.isRep : Instr → Bool
  | .repMovs _ _ => true
  | .nop _ | .movR8Imm8 _ _ _ | .movRImm _ _ _ | .movRm8Imm8 _ _ _ | .movRmImm _ _ _ | .movRm8R8 _ _ _ | .movRmR _ _ _
  | .movR8Rm8 _ _ _ | .movRRm _ _ _ | .movAlMoffs _ _ | .movAxMoffs _ _ | .movMoffsAl _ _ | .movMoffsAx _ _ | .movSregRm _ _ _
  | .xorAlImm8 _ _ | .xorRmR _ _ _ | .xorRRm _ _ _ | .incR _ _ | .decR _ _ | .shlRmImm8 _ _ _ | .shrRm1 _ _ | .shrRmImm8 _ _ _
  | .outImm8Al _ _ | .cli _ | .cld _ | .movsB _ | .movsW _ | .jmpRel8 _ _ | .jmpRel _ _ | .jmpFar _ _ _ | .jmpFarMem _ _
  | .callFar _ _ _ | .callFarMem _ _ | .jnzRel8 _ _ | .hlt _ | .movRCr0 _ _ | .movRCr3 _ _ | .movCr0R _ _ | .movCr3R _ _
  | .movRTr6 _ _ | .movRTr7 _ _ | .movTr6R _ _ | .movTr7R _ _ | .lgdt _ _ | .lidt _ _ | .ltr _ _ | .lar _ _ _ => false

/-- A well-formed instruction of code whose default size is `d32`: sizes agree with the prefixes, operands can be encoded, at most 15 bytes
(R100). -/
def Instr.wf (d32 : Bool) (i : Instr) : Bool :=
  i.hdr.wf d32 i.isRep && i.operandsWf && decide (i.length ≤ 15)

end Sys2Proof
end

