-- ==== Sys2Proof/Decode.lean ====
section
/-! DEFINITION. The decoder, total on any bytes and rejecting by name, and after it the encoder, both from the opcode map
(spec/30_encoding.md R100 to R109). -/

namespace Sys2Proof

/-- Why bytes are no instruction of this spec (R109; 92_eei_decisions.md D18). -/
inductive DecodeError
  /-- the bytes end before the instruction does -/
  | truncated
  /-- an opcode byte that R107 does not list -/
  | unknownOpcode (op : Byte)
  /-- a byte after 0FH that R107 does not list -/
  | unknownSecondByte (op : Byte)
  /-- a ModRM opcode extension that R107 does not list for this opcode -/
  | unknownExtension (op : Byte) (ext : BitVec 3)
  /-- a segment, control or test register number the spec gives no register for (R103, R109) -/
  | reservedRegister (num : BitVec 3)
  /-- a register where the instruction takes a memory operand only (R133, R134, R170, R171) -/
  | registerOperand
  /-- the REP prefix before an instruction other than MOVS (R101, R208) -/
  | repWithoutMovs
  /-- more than 15 bytes (R100) -/
  | tooLong
  deriving DecidableEq, Repr

/-- What decoding gives. -/
abbrev Decoded (α : Type) := Except DecodeError α

/-! ## Fields -/

/-- A prefix byte (R101). -/
def Pfx.ofByte (b : Byte) : Option Pfx :=
  match b.toNat with
  | 0x66 => some .opSize
  | 0x67 => some .addrSize
  | 0x2E => some (.seg .cs)
  | 0x26 => some (.seg .es)
  | 0x3E => some (.seg .ds)
  | 0x36 => some (.seg .ss)
  | 0x64 => some (.seg .fs)
  | 0x65 => some (.seg .gs)
  | 0xF3 => some .rep
  | _ => none

/-- The prefix bytes at the front, in order, and what follows them. -/
def splitPfx : List Byte → List Pfx × List Byte
  | [] => ([], [])
  | b :: t =>
    match Pfx.ofByte b with
    | some p => (p :: (splitPfx t).1, (splitPfx t).2)
    | none => ([], b :: t)

/-- Take a little-endian field of `n` bytes. -/
def takeField (n : Nat) (t : List Byte) : Decoded (Nat × List Byte) :=
  match takeLe n t with
  | some r => .ok r
  | none => .error .truncated

/-- The displacement that `mod` announces: none, one byte, or a full one of `w` bits (R104, R105). -/
def decodeDisp (w : Nat) (md : BitVec 2) (t : List Byte) : Decoded (Disp w × List Byte) :=
  match md.toNat with
  | 0 => .ok (.zero, t)
  | 1 => (takeField 1 t).map fun r => (.d8 (BitVec.ofNat 8 r.1), r.2)
  | _ => (takeField (w / 8) t).map fun r => (.full (BitVec.ofNat w r.1), r.2)

/-- The memory operand of a ModRM under 16-bit addressing (R104). -/
def decodeMem16 (md : BitVec 2) (rm : BitVec 3) (t : List Byte) : Decoded (Mem × List Byte) :=
  if md = 0 ∧ rm = 6 then (takeField 2 t).map fun r => (.direct16 (BitVec.ofNat 16 r.1), r.2)
  else (decodeDisp 16 md t).map fun r => (.based16 (Base16.ofNum rm) r.1, r.2)

/-- The SIB byte and displacement (R105). -/
def decodeSib (md : BitVec 2) : List Byte → Decoded (Mem × List Byte)
  | [] => .error .truncated
  | b :: t =>
    if md = 0 ∧ b.extractLsb' 0 3 = 5#3 then
      (takeField 4 t).map fun r => (.sibNoBase (b.extractLsb' 6 2) (indexOfNum (b.extractLsb' 3 3)) (BitVec.ofNat 32 r.1), r.2)
    else
      (decodeDisp 32 md t).map fun r =>
        (.sib (b.extractLsb' 6 2) (indexOfNum (b.extractLsb' 3 3)) (Reg.ofNum (b.extractLsb' 0 3)) r.1, r.2)

/-- The memory operand of a ModRM under 32-bit addressing (R105). -/
def decodeMem32 (md : BitVec 2) (rm : BitVec 3) (t : List Byte) : Decoded (Mem × List Byte) :=
  if rm = 4 then decodeSib md t
  else if md = 0 ∧ rm = 5 then (takeField 4 t).map fun r => (.direct32 (BitVec.ofNat 32 r.1), r.2)
  else (decodeDisp 32 md t).map fun r => (.based32 (Reg.ofNum rm) r.1, r.2)

/-- A decoded ModRM: the `reg` field, the operand with a register left as its number, and the bytes after it (R103). -/
structure ModRM where
  reg : BitVec 3
  rm : RM (BitVec 3)
  rest : List Byte

/-- The memory operand of a ModRM under an address size. -/
def decodeMem : Size → BitVec 2 → BitVec 3 → List Byte → Decoded (Mem × List Byte)
  | .s16 => decodeMem16
  | .s32 => decodeMem32

def decodeModRM (as : Size) : List Byte → Decoded ModRM
  | [] => .error .truncated
  | b :: t =>
    if b.extractLsb' 6 2 = 3#2 then .ok ⟨b.extractLsb' 3 3, .reg (b.extractLsb' 0 3), t⟩
    else (decodeMem as (b.extractLsb' 6 2) (b.extractLsb' 0 3) t).map fun r => ⟨b.extractLsb' 3 3, .mem r.1, r.2⟩

/-- The operand with its register number read as a register of some kind. -/
def RM.mapReg {ρ σ : Type} (f : ρ → σ) : RM ρ → RM σ
  | .reg r => .reg (f r)
  | .mem m => .mem m

def ModRM.rm32 (m : ModRM) : RM Reg := m.rm.mapReg Reg.ofNum
def ModRM.rm8 (m : ModRM) : RM Reg8 := m.rm.mapReg Reg8.ofNum

/-- The operand where only a memory operand is an instruction. -/
def ModRM.memOnly (m : ModRM) : Decoded Mem :=
  match m.rm with
  | .mem x => .ok x
  | .reg _ => .error .registerOperand

/-! ## The opcode map -/

/-- The instructions whose last field is an immediate of `n` bytes. -/
def withImm (n : Nat) (t : List Byte) (f : Nat → Instr) : Decoded Instr :=
  (takeField n t).map fun r => f r.1

/-- The far pointer of a direct far transfer: offset then selector (R106). -/
def withFarPtr (os : Size) (t : List Byte) (f : BitVec 32 → BitVec 16 → Instr) : Decoded Instr :=
  (takeField os.bytes t).bind fun r => (takeField 2 r.2).map fun q => f (BitVec.ofNat 32 r.1) (BitVec.ofNat 16 q.1)

/-- ModRM instructions with no immediate. -/
def withModRM (as : Size) (t : List Byte) (f : ModRM → Decoded Instr) : Decoded Instr :=
  (decodeModRM as t).bind f

/-- The third byte of a move to or from a control or test register: `mod` is ignored (R108). -/
def withSpecial : List Byte → (BitVec 3 → Reg → Decoded Instr) → Decoded Instr
  | [], _ => .error .truncated
  | b :: _, f => f (b.extractLsb' 3 3) (Reg.ofNum (b.extractLsb' 0 3))

/-- The instructions whose opcode begins with 0FH; `op` is the second byte (R107 to R109). -/
def decodeTwoByte (h : Hdr) (op : Byte) (t : List Byte) : Decoded Instr :=
  match op.toNat with
  | 0x00 => withModRM h.as t fun m => if m.reg = 3 then .ok (.ltr h m.rm32) else .error (.unknownExtension op m.reg)
  | 0x01 => withModRM h.as t fun m =>
      if m.reg = 2 then m.memOnly.map (.lgdt h)
      else if m.reg = 3 then m.memOnly.map (.lidt h)
      else .error (.unknownExtension op m.reg)
  | 0x02 => withModRM h.as t fun m => .ok (.lar h (Reg.ofNum m.reg) m.rm32)
  | 0x20 => withSpecial t fun n r =>
      if n = 0 then .ok (.movRCr0 h r) else if n = 3 then .ok (.movRCr3 h r) else .error (.reservedRegister n)
  | 0x22 => withSpecial t fun n r =>
      if n = 0 then .ok (.movCr0R h r) else if n = 3 then .ok (.movCr3R h r) else .error (.reservedRegister n)
  | 0x24 => withSpecial t fun n r =>
      if n = 6 then .ok (.movRTr6 h r) else if n = 7 then .ok (.movRTr7 h r) else .error (.reservedRegister n)
  | 0x26 => withSpecial t fun n r =>
      if n = 6 then .ok (.movTr6R h r) else if n = 7 then .ok (.movTr7R h r) else .error (.reservedRegister n)
  | _ => .error (.unknownSecondByte op)

/-- The forms with a register number in the opcode byte (R107). -/
def decodePlusR (h : Hdr) (op : Byte) (t : List Byte) : Decoded Instr :=
  if op.extractLsb' 3 5 = 8#5 then .ok (.incR h (Reg.ofNum (op.extractLsb' 0 3)))
  else if op.extractLsb' 3 5 = 9#5 then .ok (.decR h (Reg.ofNum (op.extractLsb' 0 3)))
  else if op.extractLsb' 3 5 = 22#5 then
    withImm 1 t fun v => .movR8Imm8 h (Reg8.ofNum (op.extractLsb' 0 3)) (BitVec.ofNat 8 v)
  else if op.extractLsb' 3 5 = 23#5 then
    withImm h.os.bytes t fun v => .movRImm h (Reg.ofNum (op.extractLsb' 0 3)) (BitVec.ofNat 32 v)
  else .error (.unknownOpcode op)

/-- The opcode map (R107). -/
def decodeOp (h : Hdr) (op : Byte) (t : List Byte) : Decoded Instr :=
  match op.toNat with
  | 0x0F =>
    match t with
    | [] => .error .truncated
    | op2 :: t2 => decodeTwoByte h op2 t2
  | 0x31 => withModRM h.as t fun m => .ok (.xorRmR h m.rm32 (Reg.ofNum m.reg))
  | 0x33 => withModRM h.as t fun m => .ok (.xorRRm h (Reg.ofNum m.reg) m.rm32)
  | 0x34 => withImm 1 t fun v => .xorAlImm8 h (BitVec.ofNat 8 v)
  | 0x75 => withImm 1 t fun v => .jnzRel8 h (BitVec.ofNat 8 v)
  | 0x88 => withModRM h.as t fun m => .ok (.movRm8R8 h m.rm8 (Reg8.ofNum m.reg))
  | 0x89 => withModRM h.as t fun m => .ok (.movRmR h m.rm32 (Reg.ofNum m.reg))
  | 0x8A => withModRM h.as t fun m => .ok (.movR8Rm8 h (Reg8.ofNum m.reg) m.rm8)
  | 0x8B => withModRM h.as t fun m => .ok (.movRRm h (Reg.ofNum m.reg) m.rm32)
  | 0x8E => withModRM h.as t fun m =>
      match SReg.ofNum m.reg with
      | some sr => .ok (.movSregRm h sr m.rm32)
      | none => .error (.reservedRegister m.reg)
  | 0x90 => .ok (.nop h)
  | 0x9A => withFarPtr h.os t (.callFar h)
  | 0xA0 => withImm h.as.bytes t fun v => .movAlMoffs h (BitVec.ofNat 32 v)
  | 0xA1 => withImm h.as.bytes t fun v => .movAxMoffs h (BitVec.ofNat 32 v)
  | 0xA2 => withImm h.as.bytes t fun v => .movMoffsAl h (BitVec.ofNat 32 v)
  | 0xA3 => withImm h.as.bytes t fun v => .movMoffsAx h (BitVec.ofNat 32 v)
  | 0xA4 => .ok (.movsB h)
  | 0xA5 => .ok (.movsW h)
  | 0xC1 => withModRM h.as t fun m =>
      if m.reg = 4 then withImm 1 m.rest fun v => .shlRmImm8 h m.rm32 (BitVec.ofNat 8 v)
      else if m.reg = 5 then withImm 1 m.rest fun v => .shrRmImm8 h m.rm32 (BitVec.ofNat 8 v)
      else .error (.unknownExtension op m.reg)
  | 0xC6 => withModRM h.as t fun m =>
      if m.reg = 0 then withImm 1 m.rest fun v => .movRm8Imm8 h m.rm8 (BitVec.ofNat 8 v)
      else .error (.unknownExtension op m.reg)
  | 0xC7 => withModRM h.as t fun m =>
      if m.reg = 0 then withImm h.os.bytes m.rest fun v => .movRmImm h m.rm32 (BitVec.ofNat 32 v)
      else .error (.unknownExtension op m.reg)
  | 0xD1 => withModRM h.as t fun m => if m.reg = 5 then .ok (.shrRm1 h m.rm32) else .error (.unknownExtension op m.reg)
  | 0xE6 => withImm 1 t fun v => .outImm8Al h (BitVec.ofNat 8 v)
  | 0xE9 => withImm h.os.bytes t fun v => .jmpRel h (BitVec.ofNat 32 v)
  | 0xEA => withFarPtr h.os t (.jmpFar h)
  | 0xEB => withImm 1 t fun v => .jmpRel8 h (BitVec.ofNat 8 v)
  | 0xF4 => .ok (.hlt h)
  | 0xFA => .ok (.cli h)
  | 0xFC => .ok (.cld h)
  | 0xFF => withModRM h.as t fun m =>
      if m.reg = 3 then m.memOnly.map (.callFarMem h)
      else if m.reg = 5 then m.memOnly.map (.jmpFarMem h)
      else .error (.unknownExtension op m.reg)
  | _ => decodePlusR h op t

/-- The instruction after a REP prefix: MOVS or nothing (R101, R208). -/
def decodeRep (h : Hdr) (op : Byte) : Decoded Instr :=
  match op.toNat with
  | 0xA4 => .ok (.repMovs h false)
  | 0xA5 => .ok (.repMovs h true)
  | _ => .error .repWithoutMovs

/-- No instruction is longer than 15 bytes (R100). -/
def checkLength (i : Instr) : Decoded Instr :=
  if i.length ≤ 15 then .ok i else .error .tooLong

/-- The first instruction in some bytes, in code whose default size is 32 when `d32` and 16 otherwise (R100, R102). -/
def decode (d32 : Bool) (bs : List Byte) : Decoded Instr :=
  match (splitPfx bs).2 with
  | [] => .error .truncated
  | op :: t =>
    let ps := (splitPfx bs).1
    let h : Hdr := ⟨ps, Size.resolve d32 (ps.contains .opSize), Size.resolve d32 (ps.contains .addrSize)⟩
    (if ps.contains .rep then decodeRep h op else decodeOp h op t).bind checkLength

/-- The longest instruction, in bytes (R100). -/
def maxLength : Nat := 15

/-- The bytes of a table word: `nbits` bits of `w`, least significant byte first, and zero bytes up to the longest instruction. -/
def tableBytes (nbits w : Nat) : List Byte := leBytes maxLength (w % 2 ^ nbits)

/-- What the decoder reads, in 16-bit code, from an instruction whose bits are `w`. -/
def decodeTableWord (nbits w : Nat) : Option Instr :=
  match decode false (tableBytes nbits w) with
  | .ok i => some i
  | .error _ => none

/-! ## The encoder -/

def Pfx.byte : Pfx → Byte
  | .opSize => 0x66
  | .addrSize => 0x67
  | .seg .cs => 0x2E
  | .seg .es => 0x26
  | .seg .ds => 0x3E
  | .seg .ss => 0x36
  | .seg .fs => 0x64
  | .seg .gs => 0x65
  | .rep => 0xF3

/-- The ModRM byte (R103). -/
def modrmByte (md : BitVec 2) (reg rm : BitVec 3) : Byte := (md ++ reg : BitVec 5) ++ rm

/-- The SIB byte (R105). -/
def sibByte (scale : BitVec 2) (index base : BitVec 3) : Byte := (scale ++ index : BitVec 5) ++ base

/-- The `mod` field that announces a displacement. -/
def Disp.modBits {w : Nat} : Disp w → BitVec 2
  | .zero => 0
  | .d8 _ => 1
  | .full _ => 2

def Disp.encode {w : Nat} : Disp w → List Byte
  | .zero => []
  | .d8 d => [d]
  | .full d => leBytes (w / 8) d.toNat

def Mem.encode (reg : BitVec 3) : Mem → List Byte
  | .direct16 d => modrmByte 0 reg 6 :: leBytes 2 d.toNat
  | .based16 b d => modrmByte d.modBits reg b.num :: d.encode
  | .direct32 d => modrmByte 0 reg 5 :: leBytes 4 d.toNat
  | .based32 r d => modrmByte d.modBits reg r.num :: d.encode
  | .sib sc i b d => modrmByte d.modBits reg 4 :: sibByte sc (indexNum i) b.num :: d.encode
  | .sibNoBase sc i d => modrmByte 0 reg 4 :: sibByte sc (indexNum i) 5 :: leBytes 4 d.toNat

def RM.encode (reg : BitVec 3) : RM Reg → List Byte
  | .reg r => [modrmByte 3 reg r.num]
  | .mem m => m.encode reg

def RM.encode8 (reg : BitVec 3) : RM Reg8 → List Byte
  | .reg r => [modrmByte 3 reg r.num]
  | .mem m => m.encode reg

/-- An opcode byte with a register number in its low three bits. -/
def plusR (base : BitVec 5) (n : BitVec 3) : Byte := base ++ n

/-- The bytes from the opcode on (R107). -/
def Instr.encodeBody : Instr → List Byte
  | .nop _ => [0x90]
  | .movR8Imm8 _ r imm => [plusR 22 r.num, imm]
  | .movRImm h r imm => plusR 23 r.num :: leBytes h.os.bytes imm.toNat
  | .movRm8Imm8 _ rm imm => 0xC6 :: rm.encode8 0 ++ [imm]
  | .movRmImm h rm imm => 0xC7 :: rm.encode 0 ++ leBytes h.os.bytes imm.toNat
  | .movRm8R8 _ rm r => 0x88 :: rm.encode8 r.num
  | .movRmR _ rm r => 0x89 :: rm.encode r.num
  | .movR8Rm8 _ r rm => 0x8A :: rm.encode8 r.num
  | .movRRm _ r rm => 0x8B :: rm.encode r.num
  | .movAlMoffs h off => 0xA0 :: leBytes h.as.bytes off.toNat
  | .movAxMoffs h off => 0xA1 :: leBytes h.as.bytes off.toNat
  | .movMoffsAl h off => 0xA2 :: leBytes h.as.bytes off.toNat
  | .movMoffsAx h off => 0xA3 :: leBytes h.as.bytes off.toNat
  | .movSregRm _ sr rm => 0x8E :: rm.encode sr.num
  | .xorAlImm8 _ imm => [0x34, imm]
  | .xorRmR _ rm r => 0x31 :: rm.encode r.num
  | .xorRRm _ r rm => 0x33 :: rm.encode r.num
  | .incR _ r => [plusR 8 r.num]
  | .decR _ r => [plusR 9 r.num]
  | .shlRmImm8 _ rm imm => 0xC1 :: rm.encode 4 ++ [imm]
  | .shrRm1 _ rm => 0xD1 :: rm.encode 5
  | .shrRmImm8 _ rm imm => 0xC1 :: rm.encode 5 ++ [imm]
  | .outImm8Al _ port => [0xE6, port]
  | .cli _ => [0xFA]
  | .cld _ => [0xFC]
  | .movsB _ => [0xA4]
  | .movsW _ => [0xA5]
  | .repMovs _ wide => [if wide then 0xA5 else 0xA4]
  | .jmpRel8 _ rel => [0xEB, rel]
  | .jmpRel h rel => 0xE9 :: leBytes h.os.bytes rel.toNat
  | .jmpFar h off sel => 0xEA :: leBytes h.os.bytes off.toNat ++ leBytes 2 sel.toNat
  | .jmpFarMem _ m => 0xFF :: m.encode 5
  | .callFar h off sel => 0x9A :: leBytes h.os.bytes off.toNat ++ leBytes 2 sel.toNat
  | .callFarMem _ m => 0xFF :: m.encode 3
  | .jnzRel8 _ rel => [0x75, rel]
  | .hlt _ => [0xF4]
  | .movRCr0 _ r => [0x0F, 0x20, modrmByte 3 0 r.num]
  | .movRCr3 _ r => [0x0F, 0x20, modrmByte 3 3 r.num]
  | .movCr0R _ r => [0x0F, 0x22, modrmByte 3 0 r.num]
  | .movCr3R _ r => [0x0F, 0x22, modrmByte 3 3 r.num]
  | .movRTr6 _ r => [0x0F, 0x24, modrmByte 3 6 r.num]
  | .movRTr7 _ r => [0x0F, 0x24, modrmByte 3 7 r.num]
  | .movTr6R _ r => [0x0F, 0x26, modrmByte 3 6 r.num]
  | .movTr7R _ r => [0x0F, 0x26, modrmByte 3 7 r.num]
  | .lgdt _ m => 0x0F :: 0x01 :: m.encode 2
  | .lidt _ m => 0x0F :: 0x01 :: m.encode 3
  | .ltr _ rm => 0x0F :: 0x00 :: rm.encode 3
  | .lar _ r rm => 0x0F :: 0x02 :: rm.encode r.num

/-- The bytes of an instruction: its prefixes in their order, then the body. -/
def encode (i : Instr) : List Byte := i.hdr.pfx.map Pfx.byte ++ i.encodeBody

end Sys2Proof
end

