-- ==== Sys2Proof/Machine/State.lean ====
section
/-! DEFINITION. The state of the machine, all of it plain data (spec/10_state.md), the reasons a step can stop, and the machine right
after RESET (spec/70_reset_and_hazards.md R291). -/

namespace Sys2Proof.Machine

open Sys2Proof

/-! ## Registers -/

/-- The eight general registers (10_state.md R20). None is hardwired. -/
structure Gpr where
  eax : DWord
  ecx : DWord
  edx : DWord
  ebx : DWord
  esp : DWord
  ebp : DWord
  esi : DWord
  edi : DWord
  deriving DecidableEq, Repr

/-- EFLAGS by its named fields (10_state.md R23). The fixed bit 1 and the reserved bits hold nothing: bit 1 always reads 1, the others
read 0 (`Eflags.toWord`). No instruction in scope reads or writes the register as a whole. -/
structure Eflags where
  cf : Bool
  pf : Bool
  af : Bool
  zf : Bool
  sf : Bool
  tf : Bool
  ifl : Bool
  df : Bool
  of : Bool
  iopl : BitVec 2
  nt : Bool
  rf : Bool
  vm : Bool
  deriving DecidableEq, Repr

/-- EFLAGS as a doubleword, at the bit positions of R23. -/
def Eflags.toWord (f : Eflags) : DWord :=
  0#14 ++ (BitVec.ofBool f.vm ++ (BitVec.ofBool f.rf ++ (0#1 ++ (BitVec.ofBool f.nt ++ (f.iopl ++ (BitVec.ofBool f.of ++
    (BitVec.ofBool f.df ++ (BitVec.ofBool f.ifl ++ (BitVec.ofBool f.tf ++ (BitVec.ofBool f.sf ++ (BitVec.ofBool f.zf ++ (0#1 ++
    (BitVec.ofBool f.af ++ (0#1 ++ (BitVec.ofBool f.pf ++ (1#1 ++ BitVec.ofBool f.cf))))))))))))))))

/-- The fields of a doubleword laid out as EFLAGS (R23). -/
def Eflags.ofWord (x : DWord) : Eflags :=
  { cf := x.getLsbD 0, pf := x.getLsbD 2, af := x.getLsbD 4, zf := x.getLsbD 6, sf := x.getLsbD 7, tf := x.getLsbD 8
    ifl := x.getLsbD 9, df := x.getLsbD 10, of := x.getLsbD 11, iopl := x.extractLsb' 12 2, nt := x.getLsbD 14
    rf := x.getLsbD 16, vm := x.getLsbD 17 }

/-- A segment register: the visible selector and the hidden part (10_state.md R24; 42_descriptor_tables_and_segments.md R175). -/
structure SegReg where
  sel : Word16
  base : DWord
  /-- the highest valid offset; no access is checked against it (92_eei_decisions.md D6, log 15) -/
  limit : DWord
  /-- the access byte of the descriptor, the first part of `S.attr` (R175) -/
  access : Byte
  /-- bits 7:4 of the granularity byte, the second part of `S.attr` (R175); bit 2 is D/B (R81) -/
  gran : BitVec 4
  /-- false after a null selector is loaded in protected mode: "mark Sreg unusable" (R175) -/
  usable : Bool
  deriving DecidableEq, Repr

/-- The six segment registers (10_state.md R24). -/
structure Segs where
  es : SegReg
  cs : SegReg
  ss : SegReg
  ds : SegReg
  fs : SegReg
  gs : SegReg
  deriving DecidableEq, Repr

/-- GDTR and IDTR: base and limit (10_state.md R25). -/
structure TableReg where
  base : DWord
  limit : Word16
  deriving DecidableEq, Repr

/-- LDTR and the task register: a selector and a hidden base and limit (10_state.md R25). -/
structure SysSeg where
  sel : Word16
  base : DWord
  limit : DWord
  deriving DecidableEq, Repr

/-- TR6 by its named fields; the reserved bits are not stored (10_state.md R28; 92_eei_decisions.md D15). `dn`, `un`, `wn` are D#, U#, W#. -/
structure TR6 where
  lin : BitVec 20
  v : Bool
  d : Bool
  dn : Bool
  u : Bool
  un : Bool
  w : Bool
  wn : Bool
  c : Bool
  deriving DecidableEq, Repr

/-- TR7 by its named fields; the reserved bits are not stored (10_state.md R29; 92_eei_decisions.md D15). -/
structure TR7 where
  phys : BitVec 20
  ht : Bool
  rep : BitVec 2
  deriving DecidableEq, Repr

/-! ## The TLB -/

/-- A TLB entry (10_state.md R30): the 24-bit tag (lin, V, D, U, W) and the 20-bit data. -/
structure TlbEntry where
  lin : BitVec 20
  v : Bool
  d : Bool
  u : Bool
  w : Bool
  phys : BitVec 20
  /-- false while the entry is `uninitialised` (R30, 44_test_register_moves.md R240) -/
  written : Bool
  /-- written since the mark of R241 came to cover V = 0 only: the model's bookkeeping of "all entries are rewritten" (log 24) -/
  rewritten : Bool
  deriving DecidableEq, Repr

/-- Eight like things: one associative block (R30). -/
structure Oct (α : Type) where
  e0 : α
  e1 : α
  e2 : α
  e3 : α
  e4 : α
  e5 : α
  e6 : α
  e7 : α
  deriving DecidableEq, Repr

/-- Four like things: the four blocks REP selects (R30). -/
structure Quad (α : Type) where
  b0 : α
  b1 : α
  b2 : α
  b3 : α
  deriving DecidableEq, Repr

/-- The TLB: four blocks of eight entries (R30). -/
abbrev Tlb := Quad (Oct TlbEntry)

/-- The sticky mark `tlb_undefined` of 44_test_register_moves.md R241: absent; set; or set and then a write of CR3, after which commands
with V = 1 are defined again and those with V = 0 are not (log 24). -/
inductive TlbMark
  | clean
  | undefined
  | undefinedV0
  deriving DecidableEq, Repr

/-- TR_LAYOUT (00_scope.md R4; 92_eei_decisions.md D13): where the fields of TR6 and TR7 lie in a doubleword. A field of several bits is
given by its lowest bit. The part fixes it. -/
structure TrLayout where
  lin : Fin 13
  v : Fin 32
  d : Fin 32
  dn : Fin 32
  u : Fin 32
  un : Fin 32
  w : Fin 32
  wn : Fin 32
  c : Fin 32
  phys : Fin 13
  ht : Fin 32
  rep : Fin 31
  deriving DecidableEq, Repr

/-- PRESUMED (log 7): the general-knowledge value of TR_LAYOUT (10_state.md R28, R29). -/
def TrLayout.generalKnowledge : TrLayout :=
  { lin := 12, v := 11, d := 10, dn := 9, u := 8, un := 7, w := 6, wn := 5, c := 0, phys := 12, ht := 4, rep := 2 }

/-- TLB_INDEX (00_scope.md R4; 92_eei_decisions.md D12), a function from page numbers to 0..7 as plain data: the pages whose index is not
the general-knowledge one, each with its index (log 7). -/
abbrev TlbIndexTable := List (BitVec 20 × BitVec 3)

/-! ## Run state, platform -/

/-- 10_state.md R32. -/
inductive Run
  | running
  | halted
  | shutdown
  deriving DecidableEq, Repr

/-- A REP MOVS between two of its iterations: the instruction whose bytes have been read (43_example_general_instructions.md R208; log 13). -/
structure Repeat where
  hdr : Hdr
  wide : Bool
  deriving DecidableEq, Repr

/-- What answers at a physical address (20_memory.md R76; MEMORY_MAP of 00_scope.md R4). -/
inductive RegionKind
  | ram
  | rom
  | absent
  deriving DecidableEq, Repr

/-- A region of the memory map: `size` bytes from `base`. -/
structure Region where
  base : Nat
  size : Nat
  kind : RegionKind
  deriving DecidableEq, Repr

/-- The event PortWrite(port, n, v) of 20_memory.md R90; n is 1 for every port write in scope. -/
structure PortWrite where
  port : Word16
  width : Nat
  value : Byte
  deriving DecidableEq, Repr

/-- Physical memory as (address, byte) pairs in canonical form: addresses strictly rising, no byte equal to what an unlisted address reads
as (20_memory.md R70). -/
abbrev Memory := List Host.Cell

/-- UNDEF_AT_RESET (00_scope.md R4; 10_state.md R48; 92_eei_decisions.md D10): one value for each register or field that the source
leaves undefined after RESET. -/
structure UndefAtReset where
  eax : DWord
  ecx : DWord
  ebx : DWord
  esp : DWord
  ebp : DWord
  esi : DWord
  edi : DWord
  edxHigh : Word16
  gdtr : TableReg
  ldtr : SysSeg
  tr : SysSeg
  /-- CR0 bits 30:5 -/
  cr0Reserved : BitVec 26
  cr2 : DWord
  cr3 : DWord
  tr6 : TR6
  tr7 : TR7
  /-- the tag bits other than V, and the data, of every entry -/
  tlb : Tlb
  deriving DecidableEq, Repr

/-- What the RESET event samples and what the part fixes (00_scope.md R4; 70_reset_and_hazards.md R290). -/
structure ResetParams where
  /-- SELFTEST_REQUESTED with SELFTEST_RESULT; none is "not requested" -/
  selftest : Option DWord
  coprocessorIs80387 : Bool
  steppingId : Byte
  csSelector : Word16
  undef : UndefAtReset
  deriving DecidableEq, Repr

/-- The inputs from outside the processor (00_scope.md R11, R14; 10_state.md R34): a RESET not yet taken, an NMI not yet taken, the
maskable interrupt request (log 11). -/
structure Inputs where
  reset : Option ResetParams
  nmi : Bool
  intr : Bool
  deriving DecidableEq, Repr

/-- The whole machine. INVENTORY.md gives the rule of the spec behind each field. -/
structure State where
  gpr : Gpr
  eip : DWord
  eflags : Eflags
  seg : Segs
  gdtr : TableReg
  idtr : TableReg
  ldtr : SysSeg
  tr : SysSeg
  cr0 : DWord
  cr2 : DWord
  cr3 : DWord
  tr6 : TR6
  tr7 : TR7
  tlb : Tlb
  tlbMark : TlbMark
  prefetchStale : Bool
  cpl : BitVec 2
  run : Run
  ssLoaded : Bool
  gdtrLoaded : Bool
  holdOff : Bool
  repeating : Option Repeat
  mem : Memory
  memMap : List Region
  trLayout : TrLayout
  tlbIndexTable : TlbIndexTable
  ports : List PortWrite
  inputs : Inputs
  freeCount : Nat
  deriving DecidableEq, Repr

/-! ## Why a step stops -/

/-- The exceptions in scope (60_exceptions.md R260). -/
inductive Exc
  /-- general protection, with its error code -/
  | generalProtection (code : Word16)
  | invalidOpcode
  deriving DecidableEq, Repr

/-- The vector numbers of R260; delivery is refused, so no state shows them (92_eei_decisions.md D20). -/
def Exc.vector : Exc → Nat
  | .generalProtection _ => 13
  | .invalidOpcode => 6

/-- What makes the processor consult the interrupt table (R261, R265). -/
inductive Event
  | exception (e : Exc)
  | nmi
  | interrupt
  deriving DecidableEq, Repr

/-- A run that has ended: the processor executes no instruction. -/
inductive Fault
  /-- Raised by `step` in `halted` with no RESET: the state is final (40_control_transfers.md R136; 92_eei_decisions.md D35). Safe: no claim
  can go past it (log 10). -/
  | halted
  /-- Raised by `step` in `shutdown` with no RESET and no NMI (60_exceptions.md R272; U24). Safe: no claim can go past it (log 10). -/
  | shutdown
  deriving DecidableEq, Repr

/-- The stops the spec calls `refuse`: it gives the situation no meaning and a model must not continue past it (00_scope.md R8). Every
one is safe: a claim cannot be proved past it. -/
inductive Refusal
  /-- Answered by an arm of `exec` whose instruction has no meaning yet. Safe. -/
  | notModelled (mnemonic : String)
  /-- By `step`: bytes that are no instruction of this spec (30_encoding.md R109; D18). Safe. -/
  | notAnInstruction (e : DecodeError)
  /-- By `step`: an instruction of 16-bit code whose bytes pass offset FFFFH (10_state.md R22; D23). Safe. -/
  | straddlesSegmentEnd
  /-- By any memory access: an address where nothing answers (20_memory.md R76; D26). Safe. -/
  | absentMemory (a : DWord)
  /-- By any memory access with CR0.PG = 1 (20_memory.md R72). Safe. -/
  | pagingTranslation
  /-- By `step`: an instruction other than JMP after a change of PE or PG (70_reset_and_hazards.md R299, R300; D16). Safe. -/
  | prefetchStale
  /-- On an exception, NMI or accepted interrupt with IDTR.limit not 0 (60_exceptions.md R263, R266; D18). Safe. -/
  | delivery (ev : Event)
  /-- By `step`: an NMI in shutdown (60_exceptions.md R272; D19). Safe. -/
  | nmiInShutdown
  /-- By MOV CR0: clearing PE (41_control_register_moves.md R156; D31). Safe. -/
  | leavesProtectedMode
  /-- By a far JMP or CALL in protected mode (40_control_transfers.md R132, R134; D38). Safe. -/
  | protectedFarTransfer
  /-- By a far JMP or CALL in protected mode whose selector names a TSS (40_control_transfers.md R139; D37). Safe. -/
  | taskSwitch
  /-- By a far CALL before SS has been written since reset (70_reset_and_hazards.md R293). Safe. -/
  | stackBeforeSs
  /-- By a segment load in protected mode before GDTR has been written since reset (70_reset_and_hazards.md R296). Safe. -/
  | segmentLoadBeforeGdtr
  /-- By MOV Sreg in protected mode with a selector into the LDT (42_descriptor_tables_and_segments.md R175). Safe. -/
  | ldtSelector
  /-- By MOV Sreg in protected mode with a descriptor that fails a check (R175; D38). Safe. -/
  | descriptorCheck
  /-- By an access through a segment register that a null selector made unusable (R175; log 16). Safe. -/
  | unusableSegment (r : SReg)
  /-- By OUT in protected mode with CPL above IOPL: the I/O permission check (43_example_general_instructions.md R204). Safe. -/
  | ioPermission
  /-- By MOV TR6 with CR0.PG = 1 (44_test_register_moves.md R233, R242; D29). Safe. -/
  | tlbTestWithPaging
  /-- By a TLB write with HT = 0 in TR7 (R234; D28). Safe. -/
  | tlbWriteHtClear
  /-- By a TLB command whose D, U or W pair is 00 or 11 (R236; U11). Safe. -/
  | tlbPairIllFormed
  /-- By a TLB lookup with V = 0 while an entry is uninitialised (R240; U10). Safe. -/
  | tlbUninitialisedTags
  /-- By a TLB command while the mark of duplicate tags covers it (R241; U8). Safe. -/
  | tlbUndefined
  /-- By a TLB lookup that more than one entry matches (R235; U14). Safe. -/
  | tlbManyMatches
  deriving DecidableEq, Repr

/-! ## Reset -/

/-- The same thing in every place. -/
def Oct.all {α : Type} (x : α) : Oct α := ⟨x, x, x, x, x, x, x, x⟩
def Quad.all {α : Type} (x : α) : Quad α := ⟨x, x, x, x⟩

def Oct.map {α β : Type} (f : α → β) (o : Oct α) : Oct β :=
  ⟨f o.e0, f o.e1, f o.e2, f o.e3, f o.e4, f o.e5, f o.e6, f o.e7⟩

def Quad.map {α β : Type} (f : α → β) (q : Quad α) : Quad β :=
  ⟨f q.b0, f q.b1, f q.b2, f q.b3⟩

/-- A segment register right after RESET (10_state.md R45, R46). The access rights are PRESUMED, the family's 93H (log 5). -/
def SegReg.afterReset (sel : Word16) (base : DWord) : SegReg :=
  { sel := sel, base := base, limit := 0x0000FFFF, access := 0x93, gran := 0, usable := true }

/-- A TLB entry right after RESET: V = 0, uninitialised, the other bits as given (10_state.md R30, R50). -/
def TlbEntry.afterReset (e : TlbEntry) : TlbEntry :=
  { e with v := false, written := false, rewritten := false }

/-- The reset function of 70_reset_and_hazards.md R291. Memory, the memory map, the layout and the index that the part fixes, the port writes
so far and the model's counter of free values are what they were (R291: "memory and devices: unchanged by this function"); `inputs` are
those that remain. -/
def State.resetWith (p : ResetParams) (mem : Memory) (memMap : List Region) (trLayout : TrLayout) (tlbIndexTable : TlbIndexTable)
    (ports : List PortWrite) (inputs : Inputs) (freeCount : Nat) : State :=
  { gpr :=
      { eax := p.selftest.getD p.undef.eax
        ecx := p.undef.ecx
        edx := p.undef.edxHigh ++ (0x03#8 ++ p.steppingId)
        ebx := p.undef.ebx
        esp := p.undef.esp
        ebp := p.undef.ebp
        esi := p.undef.esi
        edi := p.undef.edi }
    eip := 0x0000FFF0
    eflags := Eflags.ofWord 0x00000002
    seg :=
      { cs := SegReg.afterReset p.csSelector 0xFFFF0000
        ds := SegReg.afterReset 0 0
        es := SegReg.afterReset 0 0
        ss := SegReg.afterReset 0 0
        fs := SegReg.afterReset 0 0
        gs := SegReg.afterReset 0 0 }
    idtr := { base := 0, limit := 0x03FF }
    gdtr := p.undef.gdtr
    ldtr := p.undef.ldtr
    tr := p.undef.tr
    cr0 := 0#1 ++ (p.undef.cr0Reserved ++ (BitVec.ofBool p.coprocessorIs80387 ++ 0#4))
    cr2 := p.undef.cr2
    cr3 := p.undef.cr3
    tr6 := p.undef.tr6
    tr7 := p.undef.tr7
    tlb := p.undef.tlb.map (Oct.map TlbEntry.afterReset)
    tlbMark := .clean
    prefetchStale := false
    cpl := 0
    run := .running
    ssLoaded := false
    gdtrLoaded := false
    holdOff := false
    repeating := none
    mem := mem
    memMap := memMap
    trLayout := trLayout
    tlbIndexTable := tlbIndexTable
    ports := ports
    inputs := inputs
    freeCount := freeCount }

/-- DESIGN CHOICE (log 3): zero for everything the source leaves undefined after RESET. -/
def UndefAtReset.zero : UndefAtReset :=
  { eax := 0, ecx := 0, ebx := 0, esp := 0, ebp := 0, esi := 0, edi := 0, edxHigh := 0
    gdtr := ⟨0, 0⟩, ldtr := ⟨0, 0, 0⟩, tr := ⟨0, 0, 0⟩, cr0Reserved := 0, cr2 := 0, cr3 := 0
    tr6 := ⟨0, false, false, false, false, false, false, false, false⟩
    tr7 := ⟨0, false, 0⟩
    tlb := Quad.all (Oct.all ⟨0, false, false, false, false, 0, false, false⟩) }

/-- DESIGN CHOICE (log 3, log 4): what `State.reset` samples. -/
def ResetParams.default : ResetParams :=
  { selftest := Config.selftest
    coprocessorIs80387 := Config.coprocessorIs80387
    steppingId := Config.steppingId
    csSelector := Config.resetCsSelector
    undef := UndefAtReset.zero }

/-- The machine right after RESET (R291), with nothing placed in memory (log 1, log 28), every address RAM (log 2), the
general-knowledge layout and index (log 7), no port written, no input waiting (log 11). -/
def State.reset : State :=
  State.resetWith ResetParams.default [] [] TrLayout.generalKnowledge [] [] ⟨none, false, false⟩ 0

end Sys2Proof.Machine
end

