-- ==== Sys2Proof/Machine/Memory.lean ====
section
/-! DEFINITION. Physical memory as plain data and its memory map (spec/20_memory.md R70, R75, R76). -/

namespace Sys2Proof.Machine

open Sys2Proof

/-- The byte at a physical address; one that is not listed reads as `Config.unlistedByte` (R70, log 1). -/
def Memory.get : Memory → Nat → Byte
  | [], _ => Config.unlistedByte
  | (k, b) :: t, a => if k = a then b else Memory.get t a

/-- Put `b` in front unless it is what an unlisted address reads as. -/
def Memory.cons (a : Nat) (b : Byte) (t : Memory) : Memory :=
  if b = Config.unlistedByte then t else (a, b) :: t

/-- Store a byte, keeping the canonical form (R70). -/
def Memory.set : Memory → Nat → Byte → Memory
  | [], a, b => Memory.cons a b []
  | (k, c) :: t, a, b =>
    if a < k then Memory.cons a b ((k, c) :: t)
    else if a = k then Memory.cons a b t
    else (k, c) :: Memory.set t a b

/-- Canonical from address `lo` on. -/
def Memory.wfFrom : Nat → Memory → Bool
  | _, [] => true
  | lo, (k, b) :: t => decide (lo ≤ k) && decide (k < 2 ^ 32) && decide (b ≠ Config.unlistedByte) && Memory.wfFrom (k + 1) t

/-- The canonical form: addresses strictly rising and below 2^32, no byte that an unlisted address reads as. -/
def Memory.wf (m : Memory) : Bool := Memory.wfFrom 0 m

/-- What answers at a physical address: the first region that holds it, RAM outside every region (R75, R76; log 2). -/
def kindAt : List Region → Nat → RegionKind
  | [], _ => .ram
  | r :: t, a => if r.base ≤ a ∧ a < r.base + r.size then r.kind else kindAt t a

end Sys2Proof.Machine
end

