-- ==== Sys2Proof/Machine/Ops.lean ====
section
/-! DEFINITION. The named operations: register views, the mode, the instruction pointer, memory accesses, taking an exception, free
values. -/

namespace Sys2Proof.Machine

open Sys2Proof

/-! ## Why a meaning stops before its end -/

/-- `refuse(reason)` and `raise <Exception>` of spec/00_scope.md R8. -/
inductive Stop
  | refuse (r : Refusal)
  | raise (e : Exc)
  deriving DecidableEq, Repr

abbrev Res (α : Type) := Except Stop α

abbrev Out := Host.Outcome State Fault Refusal

def refuse {α : Type} (r : Refusal) : Res α := .error (.refuse r)
def raise {α : Type} (e : Exc) : Res α := .error (.raise e)

/-! ## Taking an exception -/

/-- An exception, NMI or accepted interrupt (60_exceptions.md R262, R265, R266): with IDTR.limit = 0 the processor shuts down; with any
other limit the spec refuses the delivery through the table. The spec describes nothing that is saved, so `s` is otherwise unchanged:
an exception is reported before any effect of its instruction (92_eei_decisions.md D20). There is no return from it (R269). -/
def takeEvent (ev : Event) (s : State) : Out :=
  if s.idtr.limit = 0 then .next { s with run := .shutdown } else .refused (.delivery ev)

/-- The outcome of an instruction begun in `s`: its next state, the stop the spec refuses, or the exception taken in `s`, since the
instruction that raises is abandoned (R8; D20). -/
def conclude (s : State) : Res State → Out
  | .ok t => .next t
  | .error (.refuse r) => .refused r
  | .error (.raise e) => takeEvent (.exception e) s

/-! ## General registers (10_state.md R20, R21) -/

def Gpr.get (g : Gpr) : Reg → DWord
  | .eax => g.eax | .ecx => g.ecx | .edx => g.edx | .ebx => g.ebx
  | .esp => g.esp | .ebp => g.ebp | .esi => g.esi | .edi => g.edi

def Gpr.set (g : Gpr) (r : Reg) (v : DWord) : Gpr :=
  match r with
  | .eax => { g with eax := v }
  | .ecx => { g with ecx := v }
  | .edx => { g with edx := v }
  | .ebx => { g with ebx := v }
  | .esp => { g with esp := v }
  | .ebp => { g with ebp := v }
  | .esi => { g with esi := v }
  | .edi => { g with edi := v }

/-- The low `w` bits of a general register: AX and the like for 16, the whole register for 32 (R21). -/
def State.reg (w : Nat) (s : State) (r : Reg) : BitVec w := (s.gpr.get r).setWidth w

/-- A write to the low `w` bits; the other bits keep their value (R21). -/
def State.setReg (w : Nat) (s : State) (r : Reg) (v : BitVec w) : State :=
  { s with gpr := s.gpr.set r (mergeLow w (s.gpr.get r) v) }

def State.reg8 (s : State) (r : Reg8) : Byte := (s.gpr.get r.parent).extractLsb' r.shift 8

/-- `old` with the bits from `i` on replaced by those of `v`. -/
def mergeBits {n : Nat} (i : Nat) (old : DWord) (v : BitVec n) : DWord :=
  (old &&& ~~~((BitVec.allOnes n).setWidth 32 <<< i)) ||| (v.setWidth 32 <<< i)

/-- A write to a byte register changes only its eight bits (R21). -/
def State.setReg8 (s : State) (r : Reg8) (v : Byte) : State :=
  { s with gpr := s.gpr.set r.parent (mergeBits r.shift (s.gpr.get r.parent) v) }

/-! ## Segment registers (10_state.md R24) -/

def Segs.get (g : Segs) : SReg → SegReg
  | .es => g.es | .cs => g.cs | .ss => g.ss | .ds => g.ds | .fs => g.fs | .gs => g.gs

def Segs.set (g : Segs) (r : SReg) (v : SegReg) : Segs :=
  match r with
  | .es => { g with es := v }
  | .cs => { g with cs := v }
  | .ss => { g with ss := v }
  | .ds => { g with ds := v }
  | .fs => { g with fs := v }
  | .gs => { g with gs := v }

def State.setSeg (s : State) (r : SReg) (v : SegReg) : State := { s with seg := s.seg.set r v }

/-- The base of a segment that may be accessed: one marked unusable may not (42 R175; log 16). -/
def State.segBase (s : State) (r : SReg) : Res DWord :=
  if (s.seg.get r).usable then .ok (s.seg.get r).base else refuse (.unusableSegment r)

/-! ## Mode and privilege (10_state.md R26, R32) -/

/-- CR0.PE: protected mode when set, real-address mode when clear (R26, R32). -/
def State.pe (s : State) : Bool := s.cr0.getLsbD 0

/-- CR0.PG (R26). -/
def State.pg (s : State) : Bool := s.cr0.getLsbD 31

/-- The privileged instructions: in protected mode at CPL other than 0, general protection with error code 0 (60_exceptions.md R260, R271). -/
def State.requireCpl0 (s : State) : Res Unit :=
  if s.pe && s.cpl != 0 then raise (.generalProtection 0) else .ok ()

/-- The default operand and address size of the code segment: 32 only in protected mode with the D bit of CS set (30_encoding.md R102). -/
def State.code32 (s : State) : Bool := s.pe && s.seg.cs.gran.getLsbD 2

/-! ## The instruction pointer (10_state.md R22) -/

/-- The low 16 bits, zero-extended. -/
def wrap16 (v : DWord) : DWord := (v.setWidth 16).setWidth 32

/-- EIP after an instruction of `n` bytes: in 16-bit code reduced modulo 2^16 (R22; 92_eei_decisions.md D23). -/
def State.nextEip (s : State) (n : Nat) : DWord :=
  if s.code32 then s.eip + BitVec.ofNat 32 n else wrap16 (s.eip + BitVec.ofNat 32 n)

def State.setEip (s : State) (v : DWord) : State := { s with eip := v }

/-- Go on to the next instruction (R22). -/
def State.advance (s : State) (n : Nat) : State := s.setEip (s.nextEip n)

/-- The REP MOVS that is between two iterations, if any (43_example_general_instructions.md R208; log 13). -/
def State.setRepeat (s : State) (r : Option Repeat) : State := { s with repeating := r }

/-- `FlushPrefetch()` (10_state.md R31; 40_control_transfers.md R137). -/
def State.flushPrefetch (s : State) : State := { s with prefetchStale := false }

/-! ## Memory accesses (20_memory.md R71 to R77) -/

/-- Linear to physical: the same while paging is off; with paging on the translation is not in the source (R72; D36). -/
def State.phys (s : State) (l : DWord) : Res DWord :=
  if s.pg then refuse .pagingTranslation else .ok l

/-- Read the byte at a linear address; an absent address is refused (R76; D26). -/
def State.readByte (s : State) (l : DWord) : Res Byte :=
  (s.phys l).bind fun p =>
    match kindAt s.memMap p.toNat with
    | .absent => refuse (.absentMemory p)
    | .ram => .ok (s.mem.get p.toNat)
    | .rom => .ok (s.mem.get p.toNat)

def State.setMem (s : State) (m : Memory) : State := { s with mem := m }

/-- Write the byte at a linear address; ROM keeps its content; an absent address is refused (R76; D26). -/
def State.writeByte (s : State) (l : DWord) (b : Byte) : Res State :=
  (s.phys l).bind fun p =>
    match kindAt s.memMap p.toNat with
    | .absent => refuse (.absentMemory p)
    | .ram => .ok (s.setMem (s.mem.set p.toNat b))
    | .rom => .ok s

/-- The `n` bytes at linear addresses l, l+1, ... modulo 2^32 (R77). -/
def State.readBytes (s : State) : DWord → Nat → Res (List Byte)
  | _, 0 => .ok []
  | l, n + 1 => (s.readByte l).bind fun b => (s.readBytes (l + 1) n).map fun t => b :: t

/-- Write bytes at linear addresses l, l+1, ... modulo 2^32, in that order (R77). -/
def State.writeBytes : State → DWord → List Byte → Res State
  | s, _, [] => .ok s
  | s, l, b :: t => (s.writeByte l b).bind fun s1 => s1.writeBytes (l + 1) t

/-- `MemRead(l, n)`, little-endian (R8, R71). -/
def State.readMem (s : State) (l : DWord) (n : Nat) : Res Nat := (s.readBytes l n).map leValue

/-- `MemWrite(l, n, v)`, little-endian (R8, R71). -/
def State.writeMem (s : State) (l : DWord) (n v : Nat) : Res State := s.writeBytes l (leBytes n v)

/-! ## Ports (20_memory.md R90) -/

/-- `PortWrite(port, 1, v)`: one more event handed to the platform, the latest last (R90; D25). -/
def State.portWrite (s : State) (port : Word16) (v : Byte) : State :=
  { s with ports := s.ports ++ [⟨port, 1, v⟩] }

/-! ## Free values (log 6) -/

/-- The free value an instruction may draw next. -/
def State.freeNow (s : State) : DWord := Config.freeWord s.freeCount

/-- The value has been drawn. -/
def State.drawn (s : State) : State := { s with freeCount := s.freeCount + 1 }

def State.setEflags (s : State) (v : Eflags) : State := { s with eflags := v }

end Sys2Proof.Machine
end

