-- ==== Sys2Proof/Machine/Flags.lean ====
section
/-! DEFINITION. How instructions compute the flags of EFLAGS (spec/10_state.md R23; 43_example_general_instructions.md R197 to R203,
R209; 41_control_register_moves.md R150). A flag the spec leaves undefined is one bit of the free value `u` (log 6). -/

namespace Sys2Proof.Machine

open Sys2Proof

/-! ## The bits of a free value that stand for undefined flags -/

def freeCf (u : DWord) : Bool := u.getLsbD 0
def freePf (u : DWord) : Bool := u.getLsbD 2
def freeAf (u : DWord) : Bool := u.getLsbD 4
def freeZf (u : DWord) : Bool := u.getLsbD 6
def freeSf (u : DWord) : Bool := u.getLsbD 7
def freeOf (u : DWord) : Bool := u.getLsbD 11

/-! ## Results -/

/-- How many 1 bits a byte has. -/
def onesCount (b : Byte) : Nat := ((List.range 8).filter fun i => b.getLsbD i).length

/-- PF: bits 7:0 of the result have an even number of 1 bits (R209). -/
def parityEven {w : Nat} (r : BitVec w) : Bool := onesCount (r.setWidth 8) % 2 == 0

/-- SZP(r) of R209. -/
def szp {w : Nat} (r : BitVec w) (f : Eflags) : Eflags :=
  { f with zf := r == 0, sf := r.msb, pf := parityEven r }

/-- After XOR with result `r`: CF and OF cleared, SZP, AF undefined (R197, R198; U17). -/
def xorFlags {w : Nat} (u : DWord) (r : BitVec w) (f : Eflags) : Eflags :=
  { szp r f with cf := false, of := false, af := freeAf u }

/-- After INC of `old`: CF untouched (R199). -/
def incFlags {w : Nat} (old : BitVec w) (f : Eflags) : Eflags :=
  { szp (old + 1) f with of := old == BitVec.ofNat w (2 ^ (w - 1) - 1), af := old.extractLsb' 0 4 == 0xF }

/-- After DEC of `old`: CF untouched (R200). -/
def decFlags {w : Nat} (old : BitVec w) (f : Eflags) : Eflags :=
  { szp (old - 1) f with of := old == BitVec.ofNat w (2 ^ (w - 1)), af := old.extractLsb' 0 4 == 0 }

/-- CF of SHL by n ≥ 1: the last bit shifted out, undefined beyond the width (R201; U17). -/
def shlCarry {w : Nat} (u : DWord) (old : BitVec w) (n : Nat) : Bool :=
  if n ≤ w then old.getLsbD (w - n) else freeCf u

/-- After SHL of `old` by n ≥ 1: OF defined for a count of 1 only, AF undefined (R201; U17). -/
def shlFlags {w : Nat} (u : DWord) (old : BitVec w) (n : Nat) (f : Eflags) : Eflags :=
  { szp (old <<< n) f with
    cf := shlCarry u old n
    of := if n = 1 then (old <<< n).msb ^^ shlCarry u old n else freeOf u
    af := freeAf u }

/-- CF of SHR by n ≥ 1: the last bit shifted out, undefined beyond the width (R202, R203; U17). -/
def shrCarry {w : Nat} (u : DWord) (old : BitVec w) (n : Nat) : Bool :=
  if n ≤ w then old.getLsbD (n - 1) else freeCf u

/-- After SHR of `old` by n ≥ 1: OF defined for a count of 1 only, AF undefined (R202, R203; U17). -/
def shrFlags {w : Nat} (u : DWord) (old : BitVec w) (n : Nat) (f : Eflags) : Eflags :=
  { szp (old >>> n) f with
    cf := shrCarry u old n
    of := if n = 1 then old.msb else freeOf u
    af := freeAf u }

/-- After a move to or from a control or test register: the six arithmetic flags are undefined (41 R150, 44 R238; U16). -/
def undefinedFlags (u : DWord) (f : Eflags) : Eflags :=
  { f with cf := freeCf u, pf := freePf u, af := freeAf u, zf := freeZf u, sf := freeSf u, of := freeOf u }

/-- EFLAGS with a change that may use the next free value, which is then drawn. -/
def State.newFlags (s : State) (f : DWord → Eflags → Eflags) : State := (s.setEflags (f s.freeNow s.eflags)).drawn

/-- The six arithmetic flags left undefined by a special-register move (R150, R238). -/
def State.clobberFlags (s : State) : State := s.newFlags undefinedFlags

end Sys2Proof.Machine
end

