-- ==== Sys2Proof/Machine/Operands.lean ====
section
/-! DEFINITION. Memory operands and register-or-memory operands (spec/30_encoding.md R103 to R106; 20_memory.md R73). -/

namespace Sys2Proof.Machine

open Sys2Proof

/-- The displacement as a number of the address size: 8 bits are sign-extended (R106). -/
def dispValue {w : Nat} : Disp w → BitVec w
  | .zero => 0
  | .d8 d => d.signExtend w
  | .full d => d

/-- The sum of registers of the 16-bit addressing table (R104). -/
def base16Sum (s : State) : Base16 → Word16
  | .bxSi => s.reg 16 .ebx + s.reg 16 .esi
  | .bxDi => s.reg 16 .ebx + s.reg 16 .edi
  | .bpSi => s.reg 16 .ebp + s.reg 16 .esi
  | .bpDi => s.reg 16 .ebp + s.reg 16 .edi
  | .si => s.reg 16 .esi
  | .di => s.reg 16 .edi
  | .bp => s.reg 16 .ebp
  | .bx => s.reg 16 .ebx

/-- The scaled index of a SIB operand (R105). -/
def sibIndex (s : State) (scale : BitVec 2) : Option Reg → DWord
  | none => 0
  | some r => s.reg 32 r <<< scale.toNat

/-- The effective address, an offset within the segment; under 16-bit addressing it is reduced modulo 2^16 (R104, R105). -/
def memOffset (s : State) : Mem → DWord
  | .direct16 d => d.setWidth 32
  | .based16 b d => (base16Sum s b + dispValue d).setWidth 32
  | .direct32 d => d
  | .based32 r d => s.reg 32 r + dispValue d
  | .sib sc i b d => s.reg 32 b + sibIndex s sc i + dispValue d
  | .sibNoBase sc i d => sibIndex s sc i + d

/-- SS for a base BP, EBP or ESP, DS otherwise (R104, R105). -/
def memSeg : Mem → SReg
  | .direct16 _ => .ds
  | .based16 .bpSi _ => .ss
  | .based16 .bpDi _ => .ss
  | .based16 .bp _ => .ss
  | .based16 .bxSi _ => .ds
  | .based16 .bxDi _ => .ds
  | .based16 .si _ => .ds
  | .based16 .di _ => .ds
  | .based16 .bx _ => .ds
  | .direct32 _ => .ds
  | .based32 r _ => if r = .esp ∨ r = .ebp then .ss else .ds
  | .sib _ _ b _ => if b = .esp ∨ b = .ebp then .ss else .ds
  | .sibNoBase _ _ _ => .ds

/-- The segment of an operand: the override, or its default (R101). -/
def hdrSegment (h : Hdr) (default : SReg) : SReg := (segOverride h.pfx).getD default

/-- `lin(S, off)` of 20_memory.md R73. -/
def State.linear (s : State) (r : SReg) (off : DWord) : Res DWord := (s.segBase r).map fun b => b + off

/-- The linear address of a memory operand. -/
def operandAddr (s : State) (h : Hdr) (m : Mem) : Res DWord := s.linear (hdrSegment h (memSeg m)) (memOffset s m)

/-- Read a register-or-memory operand of 16 or 32 bits. -/
def readRm (w : Nat) (s : State) (h : Hdr) : RM Reg → Res (BitVec w)
  | .reg r => .ok (s.reg w r)
  | .mem m => (operandAddr s h m).bind fun a => (s.readMem a (w / 8)).map (BitVec.ofNat w)

/-- Write a register-or-memory operand of 16 or 32 bits. -/
def writeRm (w : Nat) (s : State) (h : Hdr) (rm : RM Reg) (v : BitVec w) : Res State :=
  match rm with
  | .reg r => .ok (s.setReg w r v)
  | .mem m => (operandAddr s h m).bind fun a => s.writeMem a (w / 8) v.toNat

/-- Read a register-or-memory operand of 8 bits. -/
def readRm8 (s : State) (h : Hdr) : RM Reg8 → Res Byte
  | .reg r => .ok (s.reg8 r)
  | .mem m => (operandAddr s h m).bind fun a => s.readByte a

/-- Write a register-or-memory operand of 8 bits. -/
def writeRm8 (s : State) (h : Hdr) (rm : RM Reg8) (v : Byte) : Res State :=
  match rm with
  | .reg r => .ok (s.setReg8 r v)
  | .mem m => (operandAddr s h m).bind fun a => s.writeByte a v

end Sys2Proof.Machine
end

