-- ==== Sys2Proof/Machine/Cycle.lean ====
section
/-! DEFINITION. What a step does around an instruction: the inputs from outside, the fetch, the prefetch rule (spec/60_exceptions.md R261 to
R266, R272, R273; 70_reset_and_hazards.md R290, R299; 20_memory.md R89). -/

namespace Sys2Proof.Machine

open Sys2Proof

/-! ## Fetch -/

/-- How many bytes from EIP on may be read for one instruction: 15, and in 16-bit code none past offset FFFFH (R100; 10_state.md R22;
92_eei_decisions.md D23). -/
def State.fetchRoom (s : State) : Nat :=
  if s.code32 ∨ 65536 ≤ s.eip.toNat then maxLength else min maxLength (65536 - s.eip.toNat)

/-- The bytes at linear addresses l, l+1, ... that can be read, at most `n`, and the stop at the first that cannot. -/
def State.readable (s : State) : DWord → Nat → List Byte × Option Stop
  | _, 0 => ([], none)
  | l, n + 1 =>
    match s.readByte l with
    | .ok b => (b :: (s.readable (l + 1) n).1, (s.readable (l + 1) n).2)
    | .error e => ([], some e)

/-- `lin(CS, EIP)`: where the instruction is fetched (10_state.md R22; 20_memory.md R73, R74). -/
def State.fetchAddr (s : State) : DWord := s.seg.cs.base + s.eip

/-- What it means that the bytes end too soon: the stop at the first unreadable byte, the end of the 64K segment (D23), or more than 15
bytes (R100). -/
def State.cutShort (s : State) : Option Stop → Stop
  | some e => e
  | none => if s.fetchRoom < maxLength then .refuse .straddlesSegmentEnd else .refuse (.notAnInstruction .tooLong)

/-- The instruction at CS:EIP, its bytes read from memory now (R89). -/
def State.fetch (s : State) : Res Instr :=
  match decode s.code32 (s.readable s.fetchAddr s.fetchRoom).1 with
  | .ok i => .ok i
  | .error .truncated => .error (s.cutShort (s.readable s.fetchAddr s.fetchRoom).2)
  | .error e => refuse (.notAnInstruction e)

/-- The four JMP forms, the only instructions that may follow a change of PE or PG (R137, R299; 92_eei_decisions.md D17). -/
def isJmp : Instr → Bool
  | .jmpRel8 _ _ | .jmpRel _ _ | .jmpFar _ _ _ | .jmpFarMem _ _ => true
  | .nop _ | .movR8Imm8 _ _ _ | .movRImm _ _ _ | .movRm8Imm8 _ _ _ | .movRmImm _ _ _ | .movRm8R8 _ _ _ | .movRmR _ _ _
  | .movR8Rm8 _ _ _ | .movRRm _ _ _ | .movAlMoffs _ _ | .movAxMoffs _ _ | .movMoffsAl _ _ | .movMoffsAx _ _ | .movSregRm _ _ _
  | .xorAlImm8 _ _ | .xorRmR _ _ _ | .xorRRm _ _ _ | .incR _ _ | .decR _ _ | .shlRmImm8 _ _ _ | .shrRm1 _ _ | .shrRmImm8 _ _ _
  | .outImm8Al _ _ | .cli _ | .cld _ | .movsB _ | .movsW _ | .repMovs _ _
  | .callFar _ _ _ | .callFarMem _ _ | .jnzRel8 _ _ | .hlt _ | .movRCr0 _ _ | .movRCr3 _ _ | .movCr0R _ _ | .movCr3R _ _
  | .movRTr6 _ _ | .movRTr7 _ _ | .movTr6R _ _ | .movTr7R _ _ | .lgdt _ _ | .lidt _ _ | .ltr _ _ | .lar _ _ _ => false

/-! ## The beginning of a step -/

/-- How a step begins: with its outcome settled, or with an instruction to execute in a state. -/
inductive Begin
  | done (o : Out)
  | run (i : Instr) (t : State)

/-- The RESET event: the reset function on what the pin sampled, the request consumed, memory and platform as they were (R290, R291,
R310). -/
def State.takeReset (s : State) (p : ResetParams) : State :=
  State.resetWith p s.mem s.memMap s.trLayout s.tlbIndexTable s.ports { s.inputs with reset := none } s.freeCount

/-- The end of the hold-off after a load of SS (42 R174; log 12). -/
def State.endHoldOff (s : State) : State := { s with holdOff := false }

/-- More than one iteration is still to come, so that the next one does not end the instruction (43 R208). Only REP MOVS takes more than one
step. -/
def moreToCome (s : State) : Instr → Bool
  | .repMovs h _ => decide (1 < (s.reg h.as.bits .ecx).toNat)
  | .nop _ | .movR8Imm8 _ _ _ | .movRImm _ _ _ | .movRm8Imm8 _ _ _ | .movRmImm _ _ _ | .movRm8R8 _ _ _ | .movRmR _ _ _
  | .movR8Rm8 _ _ _ | .movRRm _ _ _ | .movAlMoffs _ _ | .movAxMoffs _ _ | .movMoffsAl _ _ | .movMoffsAx _ _ | .movSregRm _ _ _
  | .xorAlImm8 _ _ | .xorRmR _ _ _ | .xorRRm _ _ _ | .incR _ _ | .decR _ _ | .shlRmImm8 _ _ _ | .shrRm1 _ _ | .shrRmImm8 _ _ _
  | .outImm8Al _ _ | .cli _ | .cld _ | .movsB _ | .movsW _ | .jmpRel8 _ _ | .jmpRel _ _ | .jmpFar _ _ _ | .jmpFarMem _ _
  | .callFar _ _ _ | .callFarMem _ _ | .jnzRel8 _ _ | .hlt _ | .movRCr0 _ _ | .movRCr3 _ _ | .movCr0R _ _ | .movCr3R _ _
  | .movRTr6 _ _ | .movRTr7 _ _ | .movTr6R _ _ | .movTr7R _ _ | .lgdt _ _ | .lidt _ _ | .ltr _ _ | .lar _ _ _ => false

/-- The state in which a step executes an instruction: the hold-off ends with the step that ends the instruction, so it lasts until the
instruction after the load of SS has executed, all iterations of a REP MOVS included (42 R174; log 12). -/
def State.entering (s : State) (i : Instr) : State := if moreToCome s i then s else s.endHoldOff

def State.clearNmi (s : State) : State := { s with inputs := { s.inputs with nmi := false } }

/-- The interrupt taken before the next instruction, or between two iterations of a REP MOVS, which it ends with EIP at the instruction
(43 R208): an NMI, whatever IF holds; a maskable request when IF = 1 (R261, R264). -/
def State.interrupt (s : State) : Option Out :=
  if s.holdOff then none
  else if s.inputs.nmi then some (takeEvent .nmi (s.clearNmi.setRepeat none))
  else if s.inputs.intr && s.eflags.ifl then some (takeEvent .interrupt (s.setRepeat none))
  else none

/-- Fetch and the prefetch rule of R299. -/
def State.beginInstr (s : State) : Begin :=
  match s.fetch with
  | .error e => .done (conclude s (.error e))
  | .ok i => if s.prefetchStale && !isJmp i then .done (.refused .prefetchStale) else .run i (s.entering i)

/-- The next iteration of a REP MOVS that is not at its end, whose bytes are not read again (43 R208; log 13), or the next instruction. -/
def State.goOn (s : State) : Begin :=
  match s.repeating with
  | some r => .run (.repMovs r.hdr r.wide) (s.entering (.repMovs r.hdr r.wide))
  | none => s.beginInstr

/-- RESET comes first, in any run state (R290). In shutdown and in halted nothing else ends the state (R272; 40_control_transfers.md R136;
92_eei_decisions.md D19, D35); otherwise an interrupt is taken, or the processor goes on. -/
def beginStep (s : State) : Begin :=
  match s.inputs.reset with
  | some p => .done (.next (s.takeReset p))
  | none =>
    match s.run with
    | .shutdown => .done (if s.inputs.nmi then .refused .nmiInShutdown else .fault .shutdown)
    | .halted => .done (.fault .halted)
    | .running =>
      match s.interrupt with
      | some o => .done o
      | none => s.goOn

/-! ## Placing an instruction for the fetch -/

/-- Bytes put into memory from `l` on, as a platform that loads a program does (R310). -/
def placeBytes (m : Memory) (l : DWord) : List Byte → Memory
  | [] => m
  | b :: t => placeBytes (m.set l.toNat b) (l + 1) t

end Sys2Proof.Machine
end

