-- ==== Sys2Proof/Machine/Alu.lean ====
section
/-! DEFINITION. XOR, INC, DEC, SHL and SHR (spec/43_example_general_instructions.md R197 to R203, R209, R210). -/

namespace Sys2Proof.Machine

open Sys2Proof

/-! ## Shared operations -/

/-- XOR of `b` into a register-or-memory operand (R198). -/
def xorInto (w : Nat) (s : State) (h : Hdr) (rm : RM Reg) (b : BitVec w) : Res State :=
  (readRm w s h rm).bind fun a => (writeRm w s h rm (a ^^^ b)).map fun t => t.newFlags fun u => xorFlags u (a ^^^ b)

/-- The shift count: the immediate modulo 32 (R201). -/
def shiftCount (imm : Byte) : Nat := imm.toNat % 32

/-- SHL by `n`; a count of 0 changes nothing (R201). -/
def shlBy (w : Nat) (s : State) (h : Hdr) (rm : RM Reg) (n : Nat) : Res State :=
  if n = 0 then .ok s
  else (readRm w s h rm).bind fun a => (writeRm w s h rm (a <<< n)).map fun t => t.newFlags fun u => shlFlags u a n

/-- SHR by `n`, filling with zeros; a count of 0 changes nothing (R202, R203). -/
def shrBy (w : Nat) (s : State) (h : Hdr) (rm : RM Reg) (n : Nat) : Res State :=
  if n = 0 then .ok s
  else (readRm w s h rm).bind fun a => (writeRm w s h rm (a >>> n)).map fun t => t.newFlags fun u => shrFlags u a n

/-- INC of a register (R199). -/
def incReg (w : Nat) (s : State) (r : Reg) : State :=
  (s.setReg w r (s.reg w r + 1)).setEflags (incFlags (s.reg w r) s.eflags)

/-- DEC of a register (R200). -/
def decReg (w : Nat) (s : State) (r : Reg) : State :=
  (s.setReg w r (s.reg w r - 1)).setEflags (decFlags (s.reg w r) s.eflags)

/-! ## The meanings -/

/-- R197. -/
def execXorAlImm8 (h : Hdr) (imm : Byte) (s : State) : Out :=
  .next (((s.setReg8 .al (s.reg8 .al ^^^ imm)).newFlags fun u => xorFlags u (s.reg8 .al ^^^ imm)).advance
    (Instr.xorAlImm8 h imm).length)

/-- R198. -/
def execXorRmR (h : Hdr) (rm : RM Reg) (r : Reg) (s : State) : Out :=
  conclude s ((xorInto h.os.bits s h rm (s.reg h.os.bits r)).map fun t => t.advance (Instr.xorRmR h rm r).length)

/-- R198. -/
def execXorRRm (h : Hdr) (r : Reg) (rm : RM Reg) (s : State) : Out :=
  conclude s ((readRm h.os.bits s h rm).bind fun b =>
    (xorInto h.os.bits s h (.reg r) b).map fun t => t.advance (Instr.xorRRm h r rm).length)

/-- R199. -/
def execIncR (h : Hdr) (r : Reg) (s : State) : Out := .next ((incReg h.os.bits s r).advance (Instr.incR h r).length)

/-- R200. -/
def execDecR (h : Hdr) (r : Reg) (s : State) : Out := .next ((decReg h.os.bits s r).advance (Instr.decR h r).length)

/-- R201. -/
def execShlRmImm8 (h : Hdr) (rm : RM Reg) (imm : Byte) (s : State) : Out :=
  conclude s ((shlBy h.os.bits s h rm (shiftCount imm)).map fun t => t.advance (Instr.shlRmImm8 h rm imm).length)

/-- R202. -/
def execShrRm1 (h : Hdr) (rm : RM Reg) (s : State) : Out :=
  conclude s ((shrBy h.os.bits s h rm 1).map fun t => t.advance (Instr.shrRm1 h rm).length)

/-- R203. -/
def execShrRmImm8 (h : Hdr) (rm : RM Reg) (imm : Byte) (s : State) : Out :=
  conclude s ((shrBy h.os.bits s h rm (shiftCount imm)).map fun t => t.advance (Instr.shrRmImm8 h rm imm).length)

end Sys2Proof.Machine
end

