-- ==== Sys2Proof/Machine/FlagsIo.lean ====
section
/-! DEFINITION. OUT, CLI and CLD (spec/43_example_general_instructions.md R204 to R206). -/

namespace Sys2Proof.Machine

open Sys2Proof

/-- Protected mode with CPL above IOPL, where OUT and CLI are not simply allowed (R204, R205). -/
def State.aboveIopl (s : State) : Bool := s.pe && decide (s.eflags.iopl < s.cpl)

/-- R204: the port number is zero-extended; above IOPL the I/O permission check is refused. -/
def execOutImm8Al (h : Hdr) (port : Byte) (s : State) : Out :=
  conclude s (if s.aboveIopl then refuse .ioPermission
    else .ok ((s.portWrite (port.setWidth 16) (s.reg8 .al)).advance (Instr.outImm8Al h port).length))

/-- R205. -/
def execCli (h : Hdr) (s : State) : Out :=
  conclude s (if s.aboveIopl then raise (.generalProtection 0)
    else .ok ((s.setEflags { s.eflags with ifl := false }).advance (Instr.cli h).length))

/-- R206. -/
def execCld (h : Hdr) (s : State) : Out :=
  .next ((s.setEflags { s.eflags with df := false }).advance (Instr.cld h).length)

end Sys2Proof.Machine
end

