-- ==== Sys2Proof/Machine/Descriptors.lean ====
section
/-! DEFINITION. Descriptors in memory, their fields, and the checks made on them (spec/20_memory.md R78, R81, R82; 42 R172 to R175). -/

namespace Sys2Proof.Machine

open Sys2Proof

/-- The fields of an 8-byte descriptor (R81). -/
structure Desc where
  base : DWord
  /-- the 20-bit limit expanded by the granularity bit: the highest valid offset (R175) -/
  limit : DWord
  access : Byte
  gran : Byte
  deriving DecidableEq, Repr

/-- `limit20`, or with G set `(limit20 << 12) OR FFFH` (R175). -/
def expandLimit (limit20 : BitVec 20) (g : Bool) : DWord := if g then limit20 ++ 0xFFF#12 else limit20.setWidth 32

/-- The descriptor whose eight bytes have the little-endian value `d` (R81). -/
def Desc.ofBits (d : BitVec 64) : Desc :=
  { base := (d.extractLsb' 56 8 ++ d.extractLsb' 16 24 : BitVec 32)
    limit := expandLimit (d.extractLsb' 48 4 ++ d.extractLsb' 0 16 : BitVec 20) (d.getLsbD 55)
    access := d.extractLsb' 40 8
    gran := d.extractLsb' 48 8 }

/-- The byte offset a selector gives in its table: `sel AND FFF8H` (R82). -/
def selOffset (sel : Word16) : DWord := (sel &&& 0xFFF8).setWidth 32

/-- A null selector: `s[15:2] = 0` (R175). -/
def selNull (sel : Word16) : Bool := sel.extractLsb' 2 14 == 0

/-- Bit 2 of a selector: it names an LDT entry (R82). -/
def selLdt (sel : Word16) : Bool := sel.getLsbD 2

/-- The requested privilege level (R82). -/
def selRpl (sel : Word16) : BitVec 2 := sel.extractLsb' 0 2

/-- `selector + 7 <= limit` (R82). -/
def selInside (sel : Word16) (limit : Nat) : Bool := decide ((selOffset sel).toNat + 7 ≤ limit)

/-- The linear address of the GDT descriptor a selector names (R82). -/
def State.gdtAddr (s : State) (sel : Word16) : DWord := s.gdtr.base + selOffset sel

/-- Read a descriptor (R81). -/
def State.readDesc (s : State) (a : DWord) : Res Desc := (s.readMem a 8).map fun v => Desc.ofBits (BitVec.ofNat 64 v)

/-! ## Access bytes (R81) -/

def accPresent (a : Byte) : Bool := a.getLsbD 7
def accDpl (a : Byte) : BitVec 2 := a.extractLsb' 5 2
/-- S: a code or data segment. -/
def accSegment (a : Byte) : Bool := a.getLsbD 4
def accType (a : Byte) : BitVec 4 := a.extractLsb' 0 4
def accCode (a : Byte) : Bool := a.getLsbD 3
/-- For code: conforming. PRESUMED (log 17): R81 does not name bit 2. -/
def accConforming (a : Byte) : Bool := a.getLsbD 2
/-- For data: writable; for code: readable. -/
def accReadWrite (a : Byte) : Bool := a.getLsbD 1

/-- An available TSS: present, S = 0, type 9 or 1 (R172). -/
def accAvailableTss (a : Byte) : Bool := accPresent a && !accSegment a && (accType a == 9 || accType a == 1)

/-- A TSS of any kind: S = 0 and type 1, 3, 9 or 0BH. PRESUMED for types 1 and 3 (log 21). -/
def accTss (a : Byte) : Bool := !accSegment a && (accType a == 1 || accType a == 3 || accType a == 9 || accType a == 0xB)

/-- The level test of data and nonconforming code: neither CPL nor RPL above DPL. PRESUMED (log 17). -/
def privilegeOk (a : Byte) (cpl rpl : BitVec 2) : Bool := decide (cpl ≤ accDpl a) && decide (rpl ≤ accDpl a)

/-- "d is a present data segment, or readable code segment, of suitable privilege; SS needs writable data" (R175). The privilege part is
PRESUMED, the family's (log 17). -/
def segmentOk (r : SReg) (a : Byte) (cpl rpl : BitVec 2) : Bool :=
  accPresent a && accSegment a &&
    (if r = .ss then !accCode a && accReadWrite a && rpl == cpl && accDpl a == cpl
     else if accCode a then accReadWrite a && (accConforming a || privilegeOk a cpl rpl)
     else privilegeOk a cpl rpl)

/-- "is of a type LAR accepts" (R173). PRESUMED, the family's list (log 18). -/
def larType (a : Byte) : Bool :=
  accSegment a ||
    (accType a == 1 || accType a == 2 || accType a == 3 || accType a == 4 || accType a == 5 || accType a == 9 || accType a == 0xB
      || accType a == 0xC)

/-- "is visible at max(CPL, sel[1:0])" (R173). PRESUMED for conforming code (log 18). -/
def larVisible (a : Byte) (cpl rpl : BitVec 2) : Bool :=
  (accSegment a && accCode a && accConforming a) || privilegeOk a cpl rpl

end Sys2Proof.Machine
end

