-- ==== Sys2Proof/Machine/Jumps.lean ====
section
/-! DEFINITION. JMP, far JMP and CALL, JNZ and HLT (spec/40_control_transfers.md R130 to R139). -/

namespace Sys2Proof.Machine

open Sys2Proof

/-! ## Shared operations -/

/-- The target of a relative transfer: the EIP of the next instruction plus the displacement, modulo 2^16 under operand size 16 (R130,
R131, R135). -/
def relTarget (h : Hdr) (s : State) (n : Nat) (rel : DWord) : DWord :=
  match h.os with
  | .s16 => wrap16 (s.eip + BitVec.ofNat 32 n + rel)
  | .s32 => s.eip + BitVec.ofNat 32 n + rel

/-- A near JMP (R130, R131, R137). -/
def jumpNear (h : Hdr) (s : State) (n : Nat) (rel : DWord) : State := s.flushPrefetch.setEip (relTarget h s n rel)

/-- CS loaded by a far transfer in real-address mode: base = selector * 16, which ends the high-address condition (R132, R138). -/
def loadCsReal (sel : Word16) (s : State) : State :=
  s.setSeg .cs { s.seg.get .cs with sel := sel, base := sel.setWidth 32 * 16 }

/-- The end of a far transfer in real-address mode (R132, R134, R138). -/
def farReal (off : DWord) (sel : Word16) (s : State) : State := ((loadCsReal sel s).flushPrefetch).setEip off

/-- The selector names a descriptor of the GDT other than the null one. -/
def namesGdtEntry (s : State) (sel : Word16) : Bool := !selNull sel && !selLdt sel && selInside sel s.gdtr.limit.toNat

/-- A far transfer in protected mode, which the spec refuses: before GDTR is loaded (70 R296), to a TSS (R139), to anything else (R132,
R134; 92_eei_decisions.md D37, D38). -/
def farProtected (sel : Word16) (s : State) : Res State :=
  if !s.gdtrLoaded then refuse .segmentLoadBeforeGdtr
  else if namesGdtEntry s sel then
    (s.readByte (s.gdtAddr sel + 5)).bind fun a => if accTss a then refuse .taskSwitch else refuse .protectedFarTransfer
  else refuse .protectedFarTransfer

/-- A far JMP (R132). -/
def jumpFar (off : DWord) (sel : Word16) (s : State) : Res State :=
  if s.pe then farProtected sel s else .ok (farReal off sel s)

/-- The far pointer in memory: offset of the operand size, then selector (R133; 20_memory.md R84). -/
def readFarPtr (h : Hdr) (m : Mem) (s : State) : Res (DWord × Word16) :=
  (operandAddr s h m).bind fun a =>
    (s.readMem a h.os.bytes).bind fun off =>
      (s.readMem (a + BitVec.ofNat 32 h.os.bytes) 2).map fun sel => (BitVec.ofNat 32 off, BitVec.ofNat 16 sel)

/-- Push `n` bytes of `v`: SP, the low half of ESP, goes down by `n` and addresses the stack (R134). -/
def push (n v : Nat) (s : State) : Res State :=
  ((s.setReg 16 .esp (s.reg 16 .esp - BitVec.ofNat 16 n)).linear .ss ((s.reg 16 .esp - BitVec.ofNat 16 n).setWidth 32)).bind fun a =>
    (s.setReg 16 .esp (s.reg 16 .esp - BitVec.ofNat 16 n)).writeMem a n v

/-- What a far CALL pushes for CS: the selector; under operand size 32 padded by a free value in the upper half. PRESUMED for operand
size 32 (log 20). -/
def pushedCs (h : Hdr) (s : State) : Nat :=
  match h.os with
  | .s16 => s.seg.cs.sel.toNat
  | .s32 => (s.freeNow.extractLsb' 16 16 ++ s.seg.cs.sel : BitVec 32).toNat

/-- The state after the pushed padding has been drawn. -/
def drawPadding (h : Hdr) (s : State) : State :=
  match h.os with
  | .s16 => s
  | .s32 => s.drawn

/-- A far CALL of an instruction of `n` bytes: CS and then the return offset go on the stack (R134; 70 R293). DESIGN CHOICE (log 43): under
operand size 32 the return offset is EIP plus `n` modulo 2^32, in 16-bit code too, so 00010000H after an instruction that ends there. -/
def callFar (h : Hdr) (n : Nat) (off : DWord) (sel : Word16) (s : State) : Res State :=
  if s.pe then farProtected sel s
  else if !s.ssLoaded then refuse .stackBeforeSs
  else
    (push h.os.bytes (pushedCs h s) (drawPadding h s)).bind fun t =>
      (push h.os.bytes (s.eip + BitVec.ofNat 32 n).toNat t).map fun u => farReal off sel u

/-! ## The meanings -/

/-- R130. -/
def execJmpRel8 (h : Hdr) (rel : Byte) (s : State) : Out := .next (jumpNear h s (Instr.jmpRel8 h rel).length (rel.signExtend 32))

/-- R131. -/
def execJmpRel (h : Hdr) (rel : DWord) (s : State) : Out := .next (jumpNear h s (Instr.jmpRel h rel).length rel)

/-- R132. -/
def execJmpFar (h : Hdr) (off : DWord) (sel : Word16) (s : State) : Out :=
  match h.os with
  | .s16 => conclude s (jumpFar (wrap16 off) sel s)
  | .s32 => conclude s (jumpFar off sel s)

/-- R133. -/
def execJmpFarMem (h : Hdr) (m : Mem) (s : State) : Out :=
  conclude s ((readFarPtr h m s).bind fun p => jumpFar p.1 p.2 s)

/-- R134. -/
def execCallFar (h : Hdr) (off : DWord) (sel : Word16) (s : State) : Out :=
  match h.os with
  | .s16 => conclude s (callFar h (Instr.callFar h off sel).length (wrap16 off) sel s)
  | .s32 => conclude s (callFar h (Instr.callFar h off sel).length off sel s)

/-- R134. DESIGN CHOICE (log 41): R134 lists no read of the far pointer; it is read before the two pushes, its address formed with the old
ESP. -/
def execCallFarMem (h : Hdr) (m : Mem) (s : State) : Out :=
  conclude s ((readFarPtr h m s).bind fun p => callFar h (Instr.callFarMem h m).length p.1 p.2 s)

/-- R135: it is not the JMP of R137, so it leaves `prefetchStale`. -/
def execJnzRel8 (h : Hdr) (rel : Byte) (s : State) : Out :=
  if s.eflags.zf then .next (s.advance (Instr.jnzRel8 h rel).length)
  else .next (s.setEip (relTarget h s (Instr.jnzRel8 h rel).length (rel.signExtend 32)))

/-- R136. -/
def execHlt (h : Hdr) (s : State) : Out :=
  conclude s (s.requireCpl0.map fun _ => { s.advance (Instr.hlt h).length with run := .halted })

end Sys2Proof.Machine
end

