-- ==== Sys2Proof/Machine/Moves.lean ====
section
/-! DEFINITION. NOP and MOV between registers, immediates and memory (spec/43_example_general_instructions.md R190 to R196). -/

namespace Sys2Proof.Machine

open Sys2Proof

/-! ## Shared operations -/

/-- The linear address of a `moffs` operand: an offset in DS unless overridden (R106, R196). -/
def moffsAddr (s : State) (h : Hdr) (off : DWord) : Res DWord := s.linear (hdrSegment h .ds) off

/-- Read `w` bits of memory. -/
def loadFrom (w : Nat) (s : State) (a : Res DWord) : Res (BitVec w) :=
  a.bind fun l => (s.readMem l (w / 8)).map (BitVec.ofNat w)

/-- Write `w` bits of memory. -/
def storeTo (w : Nat) (s : State) (a : Res DWord) (v : BitVec w) : Res State :=
  a.bind fun l => s.writeMem l (w / 8) v.toNat

/-! ## The meanings -/

/-- R190. -/
def execNop (h : Hdr) (s : State) : Out := .next (s.advance (Instr.nop h).length)

/-- R191. -/
def execMovR8Imm8 (h : Hdr) (r : Reg8) (imm : Byte) (s : State) : Out :=
  .next ((s.setReg8 r imm).advance (Instr.movR8Imm8 h r imm).length)

/-- R192. -/
def execMovRImm (h : Hdr) (r : Reg) (imm : DWord) (s : State) : Out :=
  .next ((s.setReg h.os.bits r (imm.setWidth h.os.bits)).advance (Instr.movRImm h r imm).length)

/-- R193. -/
def execMovRm8Imm8 (h : Hdr) (rm : RM Reg8) (imm : Byte) (s : State) : Out :=
  conclude s ((writeRm8 s h rm imm).map fun t => t.advance (Instr.movRm8Imm8 h rm imm).length)

/-- R193. -/
def execMovRmImm (h : Hdr) (rm : RM Reg) (imm : DWord) (s : State) : Out :=
  conclude s ((writeRm h.os.bits s h rm (imm.setWidth h.os.bits)).map fun t => t.advance (Instr.movRmImm h rm imm).length)

/-- R194. -/
def execMovRm8R8 (h : Hdr) (rm : RM Reg8) (r : Reg8) (s : State) : Out :=
  conclude s ((writeRm8 s h rm (s.reg8 r)).map fun t => t.advance (Instr.movRm8R8 h rm r).length)

/-- R194. -/
def execMovRmR (h : Hdr) (rm : RM Reg) (r : Reg) (s : State) : Out :=
  conclude s ((writeRm h.os.bits s h rm (s.reg h.os.bits r)).map fun t => t.advance (Instr.movRmR h rm r).length)

/-- R195. -/
def execMovR8Rm8 (h : Hdr) (r : Reg8) (rm : RM Reg8) (s : State) : Out :=
  conclude s ((readRm8 s h rm).map fun v => (s.setReg8 r v).advance (Instr.movR8Rm8 h r rm).length)

/-- R195. -/
def execMovRRm (h : Hdr) (r : Reg) (rm : RM Reg) (s : State) : Out :=
  conclude s ((readRm h.os.bits s h rm).map fun v => (s.setReg h.os.bits r v).advance (Instr.movRRm h r rm).length)

/-- R196. -/
def execMovAlMoffs (h : Hdr) (off : DWord) (s : State) : Out :=
  conclude s ((loadFrom 8 s (moffsAddr s h off)).map fun v => (s.setReg8 .al v).advance (Instr.movAlMoffs h off).length)

/-- R196. -/
def execMovAxMoffs (h : Hdr) (off : DWord) (s : State) : Out :=
  conclude s ((loadFrom h.os.bits s (moffsAddr s h off)).map fun v =>
    (s.setReg h.os.bits .eax v).advance (Instr.movAxMoffs h off).length)

/-- R196. -/
def execMovMoffsAl (h : Hdr) (off : DWord) (s : State) : Out :=
  conclude s ((storeTo 8 s (moffsAddr s h off) (s.reg8 .al)).map fun t => t.advance (Instr.movMoffsAl h off).length)

/-- R196. -/
def execMovMoffsAx (h : Hdr) (off : DWord) (s : State) : Out :=
  conclude s ((storeTo h.os.bits s (moffsAddr s h off) (s.reg h.os.bits .eax)).map fun t =>
    t.advance (Instr.movMoffsAx h off).length)

end Sys2Proof.Machine
end

