-- ==== Sys2Proof/Machine/SegLoads.lean ====
section
/-! DEFINITION. MOV Sreg, r/m16 in real-address mode and in protected mode (spec/42_descriptor_tables_and_segments.md R174, R175). -/

namespace Sys2Proof.Machine

open Sys2Proof

/-- SS has been written since reset, and a load of SS holds off interrupts for one instruction (70 R293; 42 R174). -/
def noteSsLoad (r : SReg) (s : State) : State :=
  if r = .ss then { s with ssLoaded := true, holdOff := true } else s

/-- A load in real-address mode: base = selector * 16, limit and rights as they were (R174; 20_memory.md R73). -/
def loadSegReal (r : SReg) (sel : Word16) (s : State) : State :=
  noteSsLoad r (s.setSeg r { s.seg.get r with sel := sel, base := sel.setWidth 32 * 16 })

/-- A null selector: the base and the rest stay, the register is marked unusable (R175). -/
def loadSegNull (r : SReg) (sel : Word16) (s : State) : State :=
  s.setSeg r { s.seg.get r with sel := sel, usable := false }

/-- A segment register loaded from a descriptor (R175). -/
def segOfDesc (sel : Word16) (d : Desc) : SegReg :=
  { sel := sel, base := d.base, limit := d.limit, access := d.access, gran := d.gran.extractLsb' 4 4, usable := true }

/-- The accessed bit, written back when it was clear (R78, R175). -/
def markAccessed (a : DWord) (d : Desc) (s : State) : Res State :=
  if d.access.getLsbD 0 then .ok s else s.writeByte (a + 5) (d.access ||| 0x01)

/-- A load through the GDT (R175). -/
def loadSegGdt (r : SReg) (sel : Word16) (s : State) : Res State :=
  (s.readDesc (s.gdtAddr sel)).bind fun d =>
    if segmentOk r d.access s.cpl (selRpl sel) then
      markAccessed (s.gdtAddr sel) d (noteSsLoad r (s.setSeg r (segOfDesc sel d)))
    else refuse .descriptorCheck

/-- A load in protected mode (R175; 70_reset_and_hazards.md R296). -/
def loadSegProtected (r : SReg) (sel : Word16) (s : State) : Res State :=
  if !s.gdtrLoaded then refuse .segmentLoadBeforeGdtr
  else if selNull sel then (if r = .ss then raise (.generalProtection 0) else .ok (loadSegNull r sel s))
  else if selLdt sel then refuse .ldtSelector
  else if selInside sel s.gdtr.limit.toNat then loadSegGdt r sel s
  else raise (.generalProtection sel)

/-- R174, R175: CS as the destination is an invalid opcode; the source is always 16 bits. -/
def execMovSregRm (h : Hdr) (sr : SReg) (rm : RM Reg) (s : State) : Out :=
  conclude s (if sr = .cs then raise .invalidOpcode
    else ((readRm 16 s h rm).bind fun sel =>
      if s.pe then loadSegProtected sr sel s else .ok (loadSegReal sr sel s)).map fun t =>
        t.advance (Instr.movSregRm h sr rm).length)

end Sys2Proof.Machine
end

