-- ==== Sys2Proof/Machine/Tlb.lean ====
section
/-! DEFINITION. The TLB, the layouts of TR6 and TR7, and the two TLB commands (spec/10_state.md R28 to R30; 44_test_register_moves.md
R234 to R236, R240, R241, R244). -/

namespace Sys2Proof.Machine

open Sys2Proof

/-! ## Entries -/

def Oct.get {α : Type} (o : Oct α) (i : BitVec 3) : α :=
  match i.toNat with
  | 0 => o.e0 | 1 => o.e1 | 2 => o.e2 | 3 => o.e3 | 4 => o.e4 | 5 => o.e5 | 6 => o.e6 | _ => o.e7

def Oct.set {α : Type} (o : Oct α) (i : BitVec 3) (x : α) : Oct α :=
  match i.toNat with
  | 0 => { o with e0 := x } | 1 => { o with e1 := x } | 2 => { o with e2 := x } | 3 => { o with e3 := x }
  | 4 => { o with e4 := x } | 5 => { o with e5 := x } | 6 => { o with e6 := x } | _ => { o with e7 := x }

def Quad.get {α : Type} (q : Quad α) (b : BitVec 2) : α :=
  match b.toNat with
  | 0 => q.b0 | 1 => q.b1 | 2 => q.b2 | _ => q.b3

def Quad.set {α : Type} (q : Quad α) (b : BitVec 2) (x : α) : Quad α :=
  match b.toNat with
  | 0 => { q with b0 := x } | 1 => { q with b1 := x } | 2 => { q with b2 := x } | _ => { q with b3 := x }

/-- `TLB[b][i]` (R30). -/
def Tlb.entry (t : Tlb) (b : BitVec 2) (i : BitVec 3) : TlbEntry := (t.get b).get i

def Tlb.put (t : Tlb) (b : BitVec 2) (i : BitVec 3) (e : TlbEntry) : Tlb := t.set b ((t.get b).set i e)

def Tlb.mapEntries (f : TlbEntry → TlbEntry) (t : Tlb) : Tlb := t.map (Oct.map f)

/-- Every (block, index). -/
def Tlb.places : List (BitVec 2 × BitVec 3) :=
  ([0, 1, 2, 3] : List (BitVec 2)).flatMap fun b => ([0, 1, 2, 3, 4, 5, 6, 7] : List (BitVec 3)).map fun i => (b, i)

/-- TLB_INDEX (R244) as the part fixes it: the index its table gives, otherwise the general-knowledge value, bits 14:12 of the linear
address (log 7). -/
def tlbIndex (t : TlbIndexTable) (lin : BitVec 20) : BitVec 3 := (t.lookup lin).getD (lin.extractLsb' 0 3)

/-- Equal 24-bit tags: lin, V, D, U, W (R241; 92_eei_decisions.md D30). -/
def TlbEntry.sameTag (e f : TlbEntry) : Bool := e.lin == f.lin && e.v == f.v && e.d == f.d && e.u == f.u && e.w == f.w

/-- Another block holds an entry with the tag of `e` at index `i` (R234, R241). -/
def Tlb.duplicates (t : Tlb) (b : BitVec 2) (i : BitVec 3) (e : TlbEntry) : Bool :=
  ([0, 1, 2, 3] : List (BitVec 2)).any fun c => c != b && (t.entry c i).sameTag e

/-- Every valid bit cleared, all else kept (41_control_register_moves.md R153). -/
def Tlb.clearValid (t : Tlb) : Tlb := Tlb.mapEntries (fun e => { e with v := false }) t

/-! ## TR6 and TR7 (R28, R29), the bits where the layout of the part has them (log 7) -/

/-- The fields of each register lie apart: a layout of a part (R28, R29). -/
def TrLayout.wf (l : TrLayout) : Bool :=
  decide ([l.v, l.d, l.dn, l.u, l.un, l.w, l.wn, l.c].Nodup) &&
    ([l.v, l.d, l.dn, l.u, l.un, l.w, l.wn, l.c].all fun p => decide (p.val < l.lin.val ∨ l.lin.val + 20 ≤ p.val)) &&
    decide (l.ht.val < l.rep.val ∨ l.rep.val + 2 ≤ l.ht.val) && decide (l.ht.val < l.phys.val ∨ l.phys.val + 20 ≤ l.ht.val) &&
    decide (l.rep.val + 2 ≤ l.phys.val ∨ l.phys.val + 20 ≤ l.rep.val)

def TR6.ofWord (l : TrLayout) (x : DWord) : TR6 :=
  { lin := x.extractLsb' l.lin 20, v := x.getLsbD l.v, d := x.getLsbD l.d, dn := x.getLsbD l.dn, u := x.getLsbD l.u
    un := x.getLsbD l.un, w := x.getLsbD l.w, wn := x.getLsbD l.wn, c := x.getLsbD l.c }

/-- The reserved bits are those of `free`. -/
def TR6.toWord (l : TrLayout) (t : TR6) (free : DWord) : DWord :=
  mergeBits l.lin (mergeBits l.v (mergeBits l.d (mergeBits l.dn (mergeBits l.u (mergeBits l.un (mergeBits l.w (mergeBits l.wn
    (mergeBits l.c free (BitVec.ofBool t.c)) (BitVec.ofBool t.wn)) (BitVec.ofBool t.w)) (BitVec.ofBool t.un)) (BitVec.ofBool t.u))
    (BitVec.ofBool t.dn)) (BitVec.ofBool t.d)) (BitVec.ofBool t.v)) t.lin

def TR7.ofWord (l : TrLayout) (x : DWord) : TR7 :=
  { phys := x.extractLsb' l.phys 20, ht := x.getLsbD l.ht, rep := x.extractLsb' l.rep 2 }

/-- The reserved bits are those of `free`. -/
def TR7.toWord (l : TrLayout) (t : TR7) (free : DWord) : DWord :=
  mergeBits l.phys (mergeBits l.ht (mergeBits l.rep free t.rep) (BitVec.ofBool t.ht)) t.phys

/-! ## Commands -/

/-- `PairValue` of R236: an ill-formed pair is refused (93_implementation_defined.md U11; log 25). -/
def pairValue (x xc : Bool) : Res Bool := if x = xc then refuse .tlbPairIllFormed else .ok x

/-- D, U and W of a command. -/
def pairValues (v : TR6) : Res (Bool × Bool × Bool) :=
  (pairValue v.d v.dn).bind fun d => (pairValue v.u v.un).bind fun u => (pairValue v.w v.wn).map fun w => (d, u, w)

/-- The mark of duplicate tags covers a command with this V (R241; U8; log 24). -/
def TlbMark.covers (m : TlbMark) (v : Bool) : Bool :=
  match m with
  | .clean => false
  | .undefined => true
  | .undefinedV0 => !v

/-- The mark after an entry has been written at `b`, `i` of what is now `t` (R241; log 24). DESIGN CHOICE (log 42): only the tag just written
is compared with the others, so tags that a write of CR3 has made equal do not keep the mark. -/
def markAfterWrite (m : TlbMark) (t : Tlb) (b : BitVec 2) (i : BitVec 3) : TlbMark :=
  if t.duplicates b i (t.entry b i) then .undefined
  else if m = .undefinedV0 ∧ (Tlb.places.all fun p => (t.entry p.1 p.2).rewritten) then .clean
  else m

/-- The entry a write command stores (R234). -/
def writtenEntry (s : State) (v : TR6) (p : Bool × Bool × Bool) : TlbEntry :=
  { lin := v.lin, v := v.v, d := p.1, u := p.2.1, w := p.2.2, phys := s.tr7.phys, written := true
    rewritten := decide (s.tlbMark = .undefinedV0) }

/-- The TLB after a write command (R234, R244). -/
def tlbAfterWrite (s : State) (v : TR6) (p : Bool × Bool × Bool) : Tlb :=
  Tlb.put s.tlb s.tr7.rep (tlbIndex s.tlbIndexTable v.lin) (writtenEntry s v p)

/-- `TLBWrite(v)` (R234). -/
def tlbWrite (v : TR6) (s : State) : Res State :=
  if s.tlbMark.covers v.v then refuse .tlbUndefined
  else if !s.tr7.ht then refuse .tlbWriteHtClear
  else (pairValues v).map fun p =>
    { s with
      tlb := tlbAfterWrite s v p
      tlbMark := markAfterWrite s.tlbMark (tlbAfterWrite s v p) s.tr7.rep (tlbIndex s.tlbIndexTable v.lin) }

/-- An entry matches a lookup in all 24 tag bits (R235, R240). -/
def TlbEntry.matches (e : TlbEntry) (v : TR6) (p : Bool × Bool × Bool) : Bool :=
  e.lin == v.lin && e.v == v.v && e.d == p.1 && e.u == p.2.1 && e.w == p.2.2

/-- The set M of R235. -/
def tlbMatches (t : Tlb) (v : TR6) (p : Bool × Bool × Bool) : List (BitVec 2 × BitVec 3) :=
  Tlb.places.filter fun q => (t.entry q.1 q.2).matches v p

/-- Some entry is `uninitialised` (R30, R240). -/
def Tlb.hasUninitialised (t : Tlb) : Bool := Tlb.places.any fun p => !(t.entry p.1 p.2).written

/-- A hit: TR7 reports the entry and its block, the attribute fields of TR6 come from the entry (R235). -/
def tlbHit (s : State) (b : BitVec 2) (e : TlbEntry) : State :=
  { s with
    tr7 := { phys := e.phys, ht := true, rep := b }
    tr6 := { s.tr6 with v := e.v, d := e.d, dn := !e.d, u := e.u, un := !e.u, w := e.w, wn := !e.w } }

/-- A miss: HT = 0, the other fields of TR7 undefined, so bits of a free value (R235; U6, U7, U9). -/
def tlbMiss (s : State) : State :=
  { s.drawn with tr7 := { phys := s.freeNow.extractLsb' 12 20, ht := false, rep := s.freeNow.extractLsb' 2 2 } }

/-- The outcome of the comparison (R235); more than one match is refused (U14). -/
def tlbReport (s : State) : List (BitVec 2 × BitVec 3) → Res State
  | [] => .ok (tlbMiss s)
  | [q] => .ok (tlbHit s q.1 (Tlb.entry s.tlb q.1 q.2))
  | _ :: _ :: _ => refuse .tlbManyMatches

/-- `TLBLookup(v)` (R235). -/
def tlbLookup (v : TR6) (s : State) : Res State :=
  if s.tlbMark.covers v.v then refuse .tlbUndefined
  else if !v.v && Tlb.hasUninitialised s.tlb then refuse .tlbUninitialisedTags
  else (pairValues v).bind fun p => tlbReport s (tlbMatches s.tlb v p)

/-- The mark after a write of CR3: commands with V = 1 are defined again (R241, R247; log 24). DESIGN CHOICE (log 42): two tags that differed
in V alone and are equal now set no mark. -/
def TlbMark.afterCr3 : TlbMark → TlbMark
  | .clean => .clean
  | .undefined => .undefinedV0
  | .undefinedV0 => .undefinedV0

/-- The TLB after a write of CR3 (41 R153); the one that makes V = 1 commands defined again begins the rewriting of all entries, and a
later one leaves what has been rewritten (R241; log 24). -/
def tlbAfterCr3 (s : State) : Tlb :=
  if s.tlbMark = .undefined then Tlb.mapEntries (fun e => { e with rewritten := false }) (Tlb.clearValid s.tlb)
  else Tlb.clearValid s.tlb

end Sys2Proof.Machine
end

