-- ==== Sys2Proof/Machine/SpecialRegs.lean ====
section
/-! DEFINITION. Moves to and from CR0, CR3, TR6 and TR7 (spec/41_control_register_moves.md R150 to R157; 44_test_register_moves.md R230
to R233, R237, R238, R242). -/

namespace Sys2Proof.Machine

open Sys2Proof

/-! ## Shared operations -/

/-- What every one of these moves ends with: the six flags undefined, EIP past the instruction (R150, R238). -/
def State.endSpecial (s : State) (n : Nat) : State := s.clobberFlags.advance n

/-- A read of a special register whose value is `v` (R150, R152, R230, R231). -/
def readSpecial (s : State) (r : Reg) (v : DWord) (n : Nat) : Res State :=
  s.requireCpl0.map fun _ => (s.setReg 32 r v).endSpecial n

/-- CPL after a write of CR0: 0 on entry to protected mode (R151, R154). DESIGN CHOICE (log 40): `cpl` is a field of its own and the CS
selector stays as it was, though 10_state.md R32 has CPL, from general knowledge, in the low two bits of that selector; after a real-mode
far JMP to a selector whose bits 1:0 are not 0 the two differ. -/
def cplAfterCr0 (s : State) (v : DWord) : BitVec 2 := if !s.pe && v.getLsbD 0 then 0 else s.cpl

/-- The prefetch queue is stale after a change of PE or of PG (R151, R157; 10_state.md R31). -/
def staleAfterCr0 (s : State) (v : DWord) : Bool :=
  s.prefetchStale || s.pe != v.getLsbD 0 || s.pg != v.getLsbD 31

/-- CR0 written with `v`, EIP past the `n` bytes of the instruction in the code as it was (R151, R154). -/
def writeCr0 (s : State) (v : DWord) (n : Nat) : State :=
  { s.endSpecial n with cr0 := v, cpl := cplAfterCr0 s v, prefetchStale := staleAfterCr0 s v }

/-- CR3 written: every valid bit of the TLB cleared (R153). -/
def writeCr3 (s : State) (v : DWord) : State :=
  { s with cr3 := v, tlb := tlbAfterCr3 s, tlbMark := s.tlbMark.afterCr3 }

/-! ## The meanings -/

/-- R150. -/
def execMovRCr0 (h : Hdr) (r : Reg) (s : State) : Out := conclude s (readSpecial s r s.cr0 (Instr.movRCr0 h r).length)

/-- R152. -/
def execMovRCr3 (h : Hdr) (r : Reg) (s : State) : Out := conclude s (readSpecial s r s.cr3 (Instr.movRCr3 h r).length)

/-- R151, R155, R156: the privilege check, PG without PE, the clearing of PE, then the write. -/
def execMovCr0R (h : Hdr) (r : Reg) (s : State) : Out :=
  conclude s (s.requireCpl0.bind fun _ =>
    if (s.reg 32 r).getLsbD 31 && !(s.reg 32 r).getLsbD 0 then raise (.generalProtection 0)
    else if s.pe && !(s.reg 32 r).getLsbD 0 then refuse .leavesProtectedMode
    else .ok (writeCr0 s (s.reg 32 r) (Instr.movCr0R h r).length))

/-- R153. -/
def execMovCr3R (h : Hdr) (r : Reg) (s : State) : Out :=
  conclude s (s.requireCpl0.map fun _ => (writeCr3 s (s.reg 32 r)).endSpecial (Instr.movCr3R h r).length)

/-- R230: the reserved bits read as bits of a free value (92_eei_decisions.md D15; U20). -/
def execMovRTr6 (h : Hdr) (r : Reg) (s : State) : Out :=
  conclude s (readSpecial s.drawn r (TR6.toWord s.trLayout s.tr6 s.freeNow) (Instr.movRTr6 h r).length)

/-- R231: the reserved bits read as bits of a free value (D15; U20). -/
def execMovRTr7 (h : Hdr) (r : Reg) (s : State) : Out :=
  conclude s (readSpecial s.drawn r (TR7.toWord s.trLayout s.tr7 s.freeNow) (Instr.movRTr7 h r).length)

/-- R233: C = 0 fires a write, C = 1 a lookup. -/
def execMovTr6R (h : Hdr) (r : Reg) (s : State) : Out :=
  conclude s (s.requireCpl0.bind fun _ =>
    if s.pg then refuse .tlbTestWithPaging
    else
      (if (TR6.ofWord s.trLayout (s.reg 32 r)).c then
         tlbLookup (TR6.ofWord s.trLayout (s.reg 32 r)) { s with tr6 := TR6.ofWord s.trLayout (s.reg 32 r) }
       else tlbWrite (TR6.ofWord s.trLayout (s.reg 32 r)) { s with tr6 := TR6.ofWord s.trLayout (s.reg 32 r) }).map fun t =>
        t.endSpecial (Instr.movTr6R h r).length)

/-- R232. -/
def execMovTr7R (h : Hdr) (r : Reg) (s : State) : Out :=
  conclude s (s.requireCpl0.map fun _ => ({ s with tr7 := TR7.ofWord s.trLayout (s.reg 32 r) }).endSpecial (Instr.movTr7R h r).length)

end Sys2Proof.Machine
end

