-- ==== Sys2Proof/Machine/Strings.lean ====
section
/-! DEFINITION. MOVS and the REP prefix (spec/43_example_general_instructions.md R207, R208). -/

namespace Sys2Proof.Machine

open Sys2Proof

/-- What a string register moves by: up by `n` when DF = 0, down when DF = 1 (R207). -/
def stringDelta (w : Nat) (s : State) (n : Nat) : BitVec w :=
  if s.eflags.df then -BitVec.ofNat w n else BitVec.ofNat w n

/-- The offset in (E)SI or (E)DI by the address size (R207). -/
def stringOffset (w : Nat) (s : State) (r : Reg) : DWord := (s.reg w r).setWidth 32

/-- (E)SI and (E)DI after one move (R207). -/
def stringAdvance (w : Nat) (n : Nat) (s : State) : State :=
  (s.setReg w .esi (s.reg w .esi + stringDelta w s n)).setReg w .edi (s.reg w .edi + stringDelta w s n)

/-- One iteration of MOVS on `n` bytes: from the source segment at (E)SI to ES at (E)DI, which no prefix overrides (R207). -/
def movsOne (h : Hdr) (n : Nat) (s : State) : Res State :=
  (s.linear (hdrSegment h .ds) (stringOffset h.as.bits s .esi)).bind fun a =>
    (s.readBytes a n).bind fun bs =>
      (s.linear .es (stringOffset h.as.bits s .edi)).bind fun b =>
        (s.writeBytes b bs).map fun t => stringAdvance h.as.bits n t

/-- The count register, CX or ECX by the address size, one lower (R208). -/
def countDown (w : Nat) (s : State) : State := s.setReg w .ecx (s.reg w .ecx - 1)

/-- The bytes of one element: 1 for MOVSB, the operand size otherwise (R207). -/
def elementBytes (h : Hdr) (wide : Bool) : Nat := if wide then h.os.bytes else 1

/-- R207. -/
def execMovsB (h : Hdr) (s : State) : Out := conclude s ((movsOne h 1 s).map fun t => t.advance (Instr.movsB h).length)

/-- R207. -/
def execMovsW (h : Hdr) (s : State) : Out :=
  conclude s ((movsOne h h.os.bytes s).map fun t => t.advance (Instr.movsW h).length)

/-- After an iteration, or with nothing to move: EIP past the instruction once the count is 0; before that it still points at the REP
instruction, which goes on with the next step unless an interrupt comes first (R208; log 13). -/
def repAfter (h : Hdr) (wide : Bool) (t : State) : State :=
  if t.reg h.as.bits .ecx = 0 then (t.setRepeat none).advance (Instr.repMovs h wide).length else t.setRepeat (some ⟨h, wide⟩)

/-- R208: one iteration, none when the count is 0 (log 13). -/
def execRepMovs (h : Hdr) (wide : Bool) (s : State) : Out :=
  conclude s ((if s.reg h.as.bits .ecx = 0 then .ok s
    else (movsOne h (elementBytes h wide) s).map (countDown h.as.bits)).map (repAfter h wide))

end Sys2Proof.Machine
end

