-- ==== Sys2Proof/Machine/Tables.lean ====
section
/-! DEFINITION. LIDT, LGDT, LTR and LAR (spec/42_descriptor_tables_and_segments.md R170 to R173, R177, R178). -/

namespace Sys2Proof.Machine

open Sys2Proof

/-! ## Shared operations -/

/-- The base a pword gives: all 32 bits under operand size 32, the low 24 under 16 (R177). -/
def tableBase (os : Size) (b : Nat) : DWord :=
  match os with
  | .s16 => BitVec.ofNat 32 (b % 2 ^ 24)
  | .s32 => BitVec.ofNat 32 b

/-- The pword operand of LIDT and LGDT: limit, then base (R170, R171; 20_memory.md R83). -/
def readPword (h : Hdr) (m : Mem) (s : State) : Res TableReg :=
  (operandAddr s h m).bind fun a =>
    (s.readMem a 2).bind fun lim => (s.readMem (a + 2) 4).map fun b => ⟨tableBase h.os b, BitVec.ofNat 16 lim⟩

/-- LAR and LTR are instructions of protected mode (R172, R173). -/
def State.requireProtected (s : State) : Res Unit := if s.pe then .ok () else raise .invalidOpcode

/-- Base and limit of the table a selector names: the LDT when bit 2 is set, the GDT otherwise (R82, R173). -/
def selTable (s : State) (sel : Word16) : DWord × Nat :=
  if selLdt sel then (s.ldtr.base, s.ldtr.limit.toNat) else (s.gdtr.base, s.gdtr.limit.toNat)

/-- The access rights LAR returns from bytes 4 to 7 of a descriptor (R173). -/
def larResult (w : Nat) (hi : DWord) : BitVec w := if w = 16 then (hi &&& 0x0000FF00).setWidth w else (hi &&& 0x00F0FF00).setWidth w

/-- The access byte among bytes 4 to 7 of a descriptor (R81). -/
def accessOfHigh (hi : DWord) : Byte := hi.extractLsb' 8 8

/-- LAR succeeds on a descriptor (R173). -/
def larAccepts (s : State) (sel : Word16) (hi : DWord) : Bool :=
  larType (accessOfHigh hi) && larVisible (accessOfHigh hi) s.cpl (selRpl sel)

/-- ZF alone (R173). -/
def State.setZf (s : State) (b : Bool) : State := s.setEflags { s.eflags with zf := b }

/-- LAR on a selector: the rights and ZF = 1, or ZF = 0 and the destination as it was (R173). -/
def larLoad (w : Nat) (r : Reg) (sel : Word16) (s : State) : Res State :=
  if selNull sel || !selInside sel (selTable s sel).2 then .ok (s.setZf false)
  else (s.readMem ((selTable s sel).1 + selOffset sel + 4) 4).map fun hi =>
    if larAccepts s sel (BitVec.ofNat 32 hi) then (s.setReg w r (larResult w (BitVec.ofNat 32 hi))).setZf true else s.setZf false

/-- The task register from a TSS descriptor, which is marked busy in memory (R172; 20_memory.md R78). -/
def loadTr (sel : Word16) (s : State) : Res State :=
  if !selInside sel s.gdtr.limit.toNat then raise (.generalProtection sel)
  else (s.readDesc (s.gdtAddr sel)).bind fun d =>
    if accAvailableTss d.access then
      ({ s with tr := ⟨sel, d.base, d.limit⟩ }).writeByte (s.gdtAddr sel + 5) (d.access ||| 0x02)
    else raise (.generalProtection sel)

/-! ## The meanings -/

/-- R171: the segment registers stay as they are; GDTR now counts as loaded (70 R296). -/
def execLgdt (h : Hdr) (m : Mem) (s : State) : Out :=
  conclude s (s.requireCpl0.bind fun _ => (readPword h m s).map fun t =>
    ({ s with gdtr := t, gdtrLoaded := true }).advance (Instr.lgdt h m).length)

/-- R170. -/
def execLidt (h : Hdr) (m : Mem) (s : State) : Out :=
  conclude s (s.requireCpl0.bind fun _ => (readPword h m s).map fun t =>
    ({ s with idtr := t }).advance (Instr.lidt h m).length)

/-- R172. -/
def execLtr (h : Hdr) (rm : RM Reg) (s : State) : Out :=
  conclude s (s.requireProtected.bind fun _ => s.requireCpl0.bind fun _ =>
    (readRm 16 s h rm).bind fun sel => (loadTr sel s).map fun t => t.advance (Instr.ltr h rm).length)

/-- R173: the selector is the low 16 bits of the source. -/
def execLar (h : Hdr) (r : Reg) (rm : RM Reg) (s : State) : Out :=
  conclude s (s.requireProtected.bind fun _ =>
    (readRm h.os.bits s h rm).bind fun v =>
      (larLoad h.os.bits r (v.setWidth 16) s).map fun t => t.advance (Instr.lar h r rm).length)

end Sys2Proof.Machine
end

