-- ==== Sys2Proof/Machine/Dispatch.lean ====
section
/-! DEFINITION. Every instruction and its meaning, one arm each. -/

namespace Sys2Proof.Machine

def exec (i : Instr) (s : State) : Host.Outcome State Fault Refusal :=
  match i with
  | .nop h => Sys2Proof.Machine.execNop h s
  | .movR8Imm8 h r imm => Sys2Proof.Machine.execMovR8Imm8 h r imm s
  | .movRImm h r imm => Sys2Proof.Machine.execMovRImm h r imm s
  | .movRm8Imm8 h rm imm => Sys2Proof.Machine.execMovRm8Imm8 h rm imm s
  | .movRmImm h rm imm => Sys2Proof.Machine.execMovRmImm h rm imm s
  | .movRm8R8 h rm r => Sys2Proof.Machine.execMovRm8R8 h rm r s
  | .movRmR h rm r => Sys2Proof.Machine.execMovRmR h rm r s
  | .movR8Rm8 h r rm => Sys2Proof.Machine.execMovR8Rm8 h r rm s
  | .movRRm h r rm => Sys2Proof.Machine.execMovRRm h r rm s
  | .movAlMoffs h off => Sys2Proof.Machine.execMovAlMoffs h off s
  | .movAxMoffs h off => Sys2Proof.Machine.execMovAxMoffs h off s
  | .movMoffsAl h off => Sys2Proof.Machine.execMovMoffsAl h off s
  | .movMoffsAx h off => Sys2Proof.Machine.execMovMoffsAx h off s
  | .movSregRm h sr rm => Sys2Proof.Machine.execMovSregRm h sr rm s
  | .xorAlImm8 h imm => Sys2Proof.Machine.execXorAlImm8 h imm s
  | .xorRmR h rm r => Sys2Proof.Machine.execXorRmR h rm r s
  | .xorRRm h r rm => Sys2Proof.Machine.execXorRRm h r rm s
  | .incR h r => Sys2Proof.Machine.execIncR h r s
  | .decR h r => Sys2Proof.Machine.execDecR h r s
  | .shlRmImm8 h rm imm => Sys2Proof.Machine.execShlRmImm8 h rm imm s
  | .shrRm1 h rm => Sys2Proof.Machine.execShrRm1 h rm s
  | .shrRmImm8 h rm imm => Sys2Proof.Machine.execShrRmImm8 h rm imm s
  | .outImm8Al h port => Sys2Proof.Machine.execOutImm8Al h port s
  | .cli h => Sys2Proof.Machine.execCli h s
  | .cld h => Sys2Proof.Machine.execCld h s
  | .movsB h => Sys2Proof.Machine.execMovsB h s
  | .movsW h => Sys2Proof.Machine.execMovsW h s
  | .repMovs h wide => Sys2Proof.Machine.execRepMovs h wide s
  | .jmpRel8 h rel => Sys2Proof.Machine.execJmpRel8 h rel s
  | .jmpRel h rel => Sys2Proof.Machine.execJmpRel h rel s
  | .jmpFar h off sel => Sys2Proof.Machine.execJmpFar h off sel s
  | .jmpFarMem h m => Sys2Proof.Machine.execJmpFarMem h m s
  | .callFar h off sel => Sys2Proof.Machine.execCallFar h off sel s
  | .callFarMem h m => Sys2Proof.Machine.execCallFarMem h m s
  | .jnzRel8 h rel => Sys2Proof.Machine.execJnzRel8 h rel s
  | .hlt h => Sys2Proof.Machine.execHlt h s
  | .movRCr0 h r => Sys2Proof.Machine.execMovRCr0 h r s
  | .movRCr3 h r => Sys2Proof.Machine.execMovRCr3 h r s
  | .movCr0R h r => Sys2Proof.Machine.execMovCr0R h r s
  | .movCr3R h r => Sys2Proof.Machine.execMovCr3R h r s
  | .movRTr6 h r => Sys2Proof.Machine.execMovRTr6 h r s
  | .movRTr7 h r => Sys2Proof.Machine.execMovRTr7 h r s
  | .movTr6R h r => Sys2Proof.Machine.execMovTr6R h r s
  | .movTr7R h r => Sys2Proof.Machine.execMovTr7R h r s
  | .lgdt h m => Sys2Proof.Machine.execLgdt h m s
  | .lidt h m => Sys2Proof.Machine.execLidt h m s
  | .ltr h rm => Sys2Proof.Machine.execLtr h rm s
  | .lar h r rm => Sys2Proof.Machine.execLar h r rm s

end Sys2Proof.Machine
end

