-- ==== Sys2Proof/Machine/Step.lean ====
section
/-! DEFINITION. One step of the machine, and the placing of an instruction where the next step fetches it. -/

namespace Sys2Proof.Machine

open Sys2Proof

/-- One step: what `beginStep` settles, or the instruction it fetches. -/
def step (s : State) : Host.Outcome State Fault Refusal :=
  match beginStep s with
  | .done o => o
  | .run i t => exec i t

/-- `s` with the instruction whose bits are `w`, and zero bytes up to the longest instruction, in memory at CS:EIP, and
no REP MOVS under way, so that the next step fetches (log 28). -/
def State.withFetchWord (s : State) (nbits w : Nat) : State :=
  (s.setMem (placeBytes s.mem s.fetchAddr (tableBytes nbits w))).setRepeat none

end Sys2Proof.Machine
end

