-- ==== Sys2Proof/Safety.lean ====
section
/-! DEFINITION. The terms in which claims about the machine are stated: what a byte of memory holds, which operands can be accessed, what
an instruction has written and what it has left alone, and the invariants that every step keeps. -/

namespace Sys2Proof.Machine

open Sys2Proof

/-! ## Memory -/

/-- The byte of physical memory at an address (20_memory.md R70). -/
def State.byteAt (s : State) (a : DWord) : Byte := s.mem.get a.toNat

/-- The `n` bytes from `a` on as a little-endian number (R71, R77). -/
def State.valueAt (s : State) (a : DWord) (n : Nat) : Nat := leValue ((List.range n).map fun k => s.byteAt (a + BitVec.ofNat 32 k))

/-- The `n` bytes from `a` on can be accessed: paging is off and something answers at each (R72, R76). -/
def Present (s : State) (a : DWord) (n : Nat) : Prop :=
  s.pg = false ∧ ∀ k, k < n → kindAt s.memMap (a + BitVec.ofNat 32 k).toNat ≠ .absent

/-- `x` is one of the `n` bytes from `a` on. -/
abbrev within (x a : DWord) (n : Nat) : Prop := (x - a).toNat < n

/-- The byte that stands at `x` when the number `v` is stored at `a`, least significant byte first (R71). -/
def storedByte (x a : DWord) (v : Nat) : Byte := BitVec.ofNat 8 (v / 256 ^ (x - a).toNat)

/-- From `s` to `t` the low `n` bytes of `v` have been stored at `a`; ROM and every other byte are as before (R71, R76). -/
def Stored (s t : State) (a : DWord) (n v : Nat) : Prop :=
  ∀ x : DWord, (within x a n → kindAt s.memMap x.toNat = .ram → t.byteAt x = storedByte x a v) ∧
    (within x a n → kindAt s.memMap x.toNat = .rom → t.byteAt x = s.byteAt x) ∧
    (¬ within x a n → t.byteAt x = s.byteAt x)

/-- Every byte of memory is as before. -/
def SameBytes (s t : State) : Prop := ∀ x : DWord, t.byteAt x = s.byteAt x

/-! ## Registers -/

/-- The low `w` bits of register `r` are now `v`; its other bits and all other registers are as before (10_state.md R21). -/
def RegWritten (w : Nat) (s t : State) (r : Reg) (v : BitVec w) : Prop :=
  t.reg w r = v ∧ (∀ k, w ≤ k → (t.gpr.get r).getLsbD k = (s.gpr.get r).getLsbD k) ∧ ∀ q, q ≠ r → t.gpr.get q = s.gpr.get q

/-- Byte register `r` is now `v`; the other bits of its register and all other registers are as before (R21). -/
def Reg8Written (s t : State) (r : Reg8) (v : Byte) : Prop :=
  t.reg8 r = v ∧ (∀ k, k < r.shift ∨ r.shift + 8 ≤ k → (t.gpr.get r.parent).getLsbD k = (s.gpr.get r.parent).getLsbD k) ∧
    ∀ q, q ≠ r.parent → t.gpr.get q = s.gpr.get q

/-- The byte views of R21: each with the register it is part of and its lowest bit there. -/
def byteViews : List (Reg8 × Reg × Nat) :=
  [(.al, .eax, 0), (.cl, .ecx, 0), (.dl, .edx, 0), (.bl, .ebx, 0), (.ah, .eax, 8), (.ch, .ecx, 8), (.dh, .edx, 8), (.bh, .ebx, 8)]

/-! ## Operands -/

/-- The linear address an address computation gives; 0 where it stops. -/
def addrOf : Res DWord → DWord
  | .ok a => a
  | .error _ => 0

/-- An address computation gives an address, and the `n` bytes there can be accessed. -/
def AddrReady (s : State) (a : Res DWord) (n : Nat) : Prop := a = .ok (addrOf a) ∧ Present s (addrOf a) n

/-- An operand of `n` bytes can be read and written: it is a register, or memory that can be accessed. -/
def RmReady {ρ : Type} (s : State) (h : Hdr) (rm : RM ρ) (n : Nat) : Prop :=
  match rm with
  | .reg _ => True
  | .mem m => AddrReady s (operandAddr s h m) n

/-- What an operand of 16 or 32 bits holds. -/
def rmValue (w : Nat) (s : State) (h : Hdr) : RM Reg → BitVec w
  | .reg r => s.reg w r
  | .mem m => BitVec.ofNat w (s.valueAt (addrOf (operandAddr s h m)) (w / 8))

/-- What an operand of 8 bits holds. -/
def rmValue8 (s : State) (h : Hdr) : RM Reg8 → Byte
  | .reg r => s.reg8 r
  | .mem m => s.byteAt (addrOf (operandAddr s h m))

/-- An operand of 16 or 32 bits is now `v`, and every other register and byte of memory is as before. -/
def RmWritten (w : Nat) (s t : State) (h : Hdr) (rm : RM Reg) (v : BitVec w) : Prop :=
  match rm with
  | .reg r => RegWritten w s t r v ∧ SameBytes s t
  | .mem m => t.gpr = s.gpr ∧ Stored s t (addrOf (operandAddr s h m)) (w / 8) v.toNat

/-- An operand of 8 bits is now `v`, and every other register and byte of memory is as before. -/
def RmWritten8 (s t : State) (h : Hdr) (rm : RM Reg8) (v : Byte) : Prop :=
  match rm with
  | .reg r => Reg8Written s t r v ∧ SameBytes s t
  | .mem m => t.gpr = s.gpr ∧ Stored s t (addrOf (operandAddr s h m)) 1 v.toNat

/-! ## Flags -/

/-- ZF, SF and PF of a result (43_example_general_instructions.md R209). -/
def ResultFlags {w : Nat} (r : BitVec w) (f : Eflags) : Prop :=
  f.zf = decide (r.toNat = 0) ∧ f.sf = r.getLsbD (w - 1) ∧ f.pf = decide (((List.range 8).countP fun k => r.getLsbD k) % 2 = 0)

/-- The flags that no arithmetic writes are as before: TF, IF, DF, IOPL, NT, RF, VM (10_state.md R23). -/
def SameControlFlags (f g : Eflags) : Prop :=
  g.tf = f.tf ∧ g.ifl = f.ifl ∧ g.df = f.df ∧ g.iopl = f.iopl ∧ g.nt = f.nt ∧ g.rf = f.rf ∧ g.vm = f.vm

/-! ## Everything else -/

/-- All of the state but the general registers, EIP, EFLAGS, memory and the model's counter of free values. -/
structure SystemView where
  seg : Segs
  gdtr : TableReg
  idtr : TableReg
  ldtr : SysSeg
  tr : SysSeg
  cr0 : DWord
  cr2 : DWord
  cr3 : DWord
  tr6 : TR6
  tr7 : TR7
  tlb : Tlb
  tlbMark : TlbMark
  prefetchStale : Bool
  cpl : BitVec 2
  run : Run
  ssLoaded : Bool
  gdtrLoaded : Bool
  holdOff : Bool
  repeating : Option Repeat
  memMap : List Region
  trLayout : TrLayout
  tlbIndexTable : TlbIndexTable
  ports : List PortWrite
  inputs : Inputs
  deriving DecidableEq, Repr

def State.sys (s : State) : SystemView :=
  { seg := s.seg, gdtr := s.gdtr, idtr := s.idtr, ldtr := s.ldtr, tr := s.tr, cr0 := s.cr0, cr2 := s.cr2, cr3 := s.cr3
    tr6 := s.tr6, tr7 := s.tr7, tlb := s.tlb, tlbMark := s.tlbMark, prefetchStale := s.prefetchStale, cpl := s.cpl, run := s.run
    ssLoaded := s.ssLoaded, gdtrLoaded := s.gdtrLoaded, holdOff := s.holdOff, repeating := s.repeating
    memMap := s.memMap, trLayout := s.trLayout, tlbIndexTable := s.tlbIndexTable, ports := s.ports, inputs := s.inputs }

/-- Nothing but general registers and memory has changed, and EIP is past an instruction of `n` bytes. -/
def DataOnly (s t : State) (n : Nat) : Prop := t.sys = s.sys ∧ t.eflags = s.eflags ∧ t.eip = s.nextEip n

/-- Nothing but general registers, memory and the six arithmetic flags has changed, and EIP is past an instruction of `n` bytes. -/
def DataAndFlags (s t : State) (n : Nat) : Prop :=
  t.sys = s.sys ∧ SameControlFlags s.eflags t.eflags ∧ t.eip = s.nextEip n

/-- General registers and memory are as before. -/
def SameData (s t : State) : Prop := t.gpr = s.gpr ∧ SameBytes s t

/-- The mode and privilege in which the privileged instructions are allowed: real-address mode, or CPL 0 (60_exceptions.md R271). -/
def Privileged (s : State) : Prop := s.pe = false ∨ s.cpl = 0

/-- No NMI or enabled interrupt comes before the next instruction: none waits, or a load of SS holds it off (60_exceptions.md R261,
R264; 42_descriptor_tables_and_segments.md R174; log 11, log 12). -/
def NoInterrupt (s : State) : Prop :=
  s.holdOff = true ∨ (s.inputs.nmi = false ∧ (s.inputs.intr = false ∨ s.eflags.ifl = false))

/-- A step of `s` gets to a new instruction: the processor runs, there is no RESET, no interrupt comes first, and no REP MOVS is between two
of its iterations. -/
def Undisturbed (s : State) : Prop := s.run = .running ∧ s.inputs.reset = none ∧ NoInterrupt s ∧ s.repeating = none

/-! ## Operands' segments -/

/-- `r` is the segment of an operand whose default is `d`: the default when no prefix overrides it, otherwise that of the last override
(30_encoding.md R101; log 14). -/
def OperandSegment (h : Hdr) (d r : SReg) : Prop :=
  ((∀ x, Pfx.seg x ∉ h.pfx) ∧ r = d) ∨ ∃ p q, h.pfx = p ++ Pfx.seg r :: q ∧ ∀ x, Pfx.seg x ∉ q

/-! ## String moves -/

/-- `k` executions of an instruction, one after the other. -/
def execTimes (i : Instr) : Nat → State → Out
  | 0, s => .next s
  | k + 1, s =>
    match exec i s with
    | .next t => execTimes i k t
    | .fault f => .fault f
    | .refused r => .refused r

/-- Memory after the first `k` of a row of copies of `n` bytes, made in order: copy `j` goes from `src j` to `dst j` and reads what the
copies before it have left; ROM keeps its content (43 R207, R208; 20_memory.md R76). -/
def copied (m : List Region) (src dst : Nat → DWord) (n : Nat) (b : DWord → Byte) : Nat → DWord → Byte
  | 0, x => b x
  | k + 1, x =>
    if within x (dst k) n ∧ kindAt m x.toNat = .ram then copied m src dst n b k (src k + (x - dst k)) else copied m src dst n b k x

/-- The linear address of element `k` of a string: the offset in (E)SI or (E)DI moved `k` elements of `n` bytes (43 R207, R208). -/
def stringAddr (w : Nat) (s : State) (seg : SReg) (r : Reg) (n k : Nat) : DWord :=
  (s.seg.get seg).base + (s.reg w r + BitVec.ofNat w k * stringDelta w s n).setWidth 32

/-! ## Descriptors (20_memory.md R81; 42 R175) -/

/-- The base in the descriptor at `a`. -/
def descBase (s : State) (a : DWord) : DWord := s.byteAt (a + 7) ++ (s.byteAt (a + 4) ++ (s.byteAt (a + 3) ++ s.byteAt (a + 2)))

/-- The highest valid offset that the descriptor at `a` gives. -/
def descLimit (s : State) (a : DWord) : DWord :=
  if (s.byteAt (a + 6)).getLsbD 7 then
    (s.byteAt (a + 6)).extractLsb' 0 4 ++ (s.byteAt (a + 1) ++ (s.byteAt a ++ 0xFFF#12))
  else 0#12 ++ ((s.byteAt (a + 6)).extractLsb' 0 4 ++ (s.byteAt (a + 1) ++ s.byteAt a))

/-- A selector other than the null one, of the GDT, whose descriptor lies within its limit and can be accessed (20_memory.md R82). -/
def GdtEntry (s : State) (sel : Word16) : Prop :=
  selNull sel = false ∧ selLdt sel = false ∧ (selOffset sel).toNat + 7 ≤ s.gdtr.limit.toNat ∧ Present s (s.gdtAddr sel) 8

/-! ## TLB commands (44_test_register_moves.md R234 to R236) -/

/-- Each of D, U, W of a command word stands beside its complement (R236). -/
def PairsFormed (l : TrLayout) (x : DWord) : Prop :=
  x.getLsbD l.dn = !x.getLsbD l.d ∧ x.getLsbD l.un = !x.getLsbD l.u ∧ x.getLsbD l.wn = !x.getLsbD l.w

/-- The 24-bit tag of an entry is that of a command word (R28, R30, R235). -/
def TagIs (l : TrLayout) (e : TlbEntry) (x : DWord) : Prop :=
  e.lin = x.extractLsb' l.lin 20 ∧ e.v = x.getLsbD l.v ∧ e.d = x.getLsbD l.d ∧ e.u = x.getLsbD l.u ∧ e.w = x.getLsbD l.w

/-- A MOV to TR6 reaches its command: allowed, paging off, and no mark of duplicate tags, or, with V = 1, a mark after which CR3 has been
written (R233, R237, R241, R242; log 24). -/
def CommandReady (s : State) (x : DWord) : Prop :=
  Privileged s ∧ s.pg = false ∧ (s.tlbMark = .clean ∨ s.tlbMark = .undefinedV0 ∧ x.getLsbD s.trLayout.v = true)

/-! ## Invariants -/

/-- PG is set in protected mode only (41_control_register_moves.md R155). -/
def PagingNeedsPe (s : State) : Prop := s.pg = true → s.pe = true

/-- The current privilege level is 0, as on the path the spec models (60_exceptions.md R271). -/
def CplZero (s : State) : Prop := s.cpl = 0

/-- A TLB entry that has never been written has V = 0 (10_state.md R30). -/
def UnwrittenInvalid (s : State) : Prop := ∀ b i, (Tlb.entry s.tlb b i).written = false → (Tlb.entry s.tlb b i).v = false

/-- The base of CS is that of the reset, or 16 times its selector; its default size is 16 bits (10_state.md R33; 30_encoding.md R102). -/
def CodeSegmentShape (s : State) : Prop :=
  (s.seg.cs.base = 0xFFFF0000 ∨ s.seg.cs.base = s.seg.cs.sel.setWidth 32 * 16) ∧ s.seg.cs.gran.getLsbD 2 = false ∧
    s.seg.cs.usable = true

end Sys2Proof.Machine
end

