-- ==== Sys2Proof/Certificates/Slice0/Obligations.lean ====
section
/-! DEFINITION. The statements about the machine that are to be proved. Each names the rule of spec/ it formalises; a condition that rests
on a choice of the model names its log entry. -/

section

open Sys2Proof Sys2Proof.Machine

/-! ## Encoding -/

/-- Decoding the bytes of a well-formed instruction, whatever follows them, gives the instruction back (30_encoding.md R100 to R107). -/
def Obligations.DecodeEncode : Prop :=
  ∀ (d32 : Bool) (i : Instr) (rest : List Byte), i.wf d32 = true → decode d32 (encode i ++ rest) = .ok i

/-- What the decoder gives is well-formed (R100 to R107). -/
def Obligations.DecodedWellFormed : Prop :=
  ∀ (d32 : Bool) (bs : List Byte) (i : Instr), decode d32 bs = .ok i → i.wf d32 = true

/-- An instruction is found by its own bytes alone: as many as its length, whatever follows (R100). -/
def Obligations.DecodeReadsItsLength : Prop :=
  ∀ (d32 : Bool) (bs rest : List Byte) (i : Instr), decode d32 bs = .ok i →
    i.length ≤ bs.length ∧ decode d32 (bs.take i.length ++ rest) = .ok i

/-- Words written out from the spec's encodings decode to what they stand for (R107; 95_test_vectors.md). -/
def Obligations.DecodingWords : Prop :=
  decode false [0x66, 0xBF, 0x00, 0x10, 0x00, 0x00] = .ok (.movRImm ⟨[.opSize], .s32, .s16⟩ .edi 0x00001000) ∧
    decode false [0xC6, 0x47, 0x05, 0x92] = .ok (.movRm8Imm8 ⟨[], .s16, .s16⟩ (.mem (.based16 .bx (.d8 5))) 0x92) ∧
    decode false [0x2E, 0xF3, 0xA4] = .ok (.repMovs ⟨[.seg .cs, .rep], .s16, .s16⟩ false) ∧
    decode false [0xEA, 0x00, 0x01, 0x00, 0x10] = .ok (.jmpFar ⟨[], .s16, .s16⟩ 0x0100 0x1000) ∧
    decode false [0x0F, 0x22, 0xC0] = .ok (.movCr0R ⟨[], .s16, .s16⟩ .eax) ∧
    decode false [0x0F, 0x26, 0xF8] = .ok (.movTr7R ⟨[], .s16, .s16⟩ .eax) ∧
    decode false [0x0F, 0x00, 0xDB] = .ok (.ltr ⟨[], .s16, .s16⟩ (.reg .ebx)) ∧
    decode false [0x66, 0xC1, 0xE0, 0x10] = .ok (.shlRmImm8 ⟨[.opSize], .s32, .s16⟩ (.reg .eax) 16)

/-- The moves to and from control and test registers read `mod` as 3 whatever it holds, and a number that names no register of the spec is
no instruction (R108, R109). -/
def Obligations.SpecialRegisterNumbers : Prop :=
  ∀ (d32 : Bool) (op b : Byte) (rest : List Byte), op = 0x20 ∨ op = 0x22 ∨ op = 0x24 ∨ op = 0x26 →
    decode d32 (0x0F :: op :: b :: rest) = decode d32 (0x0F :: op :: (b ||| 0xC0) :: rest) ∧
      ((op = 0x20 ∨ op = 0x22) → b.extractLsb' 3 3 ≠ 0#3 → b.extractLsb' 3 3 ≠ 3#3 →
        decode d32 (0x0F :: op :: b :: rest) = .error (.reservedRegister (b.extractLsb' 3 3))) ∧
      ((op = 0x24 ∨ op = 0x26) → b.extractLsb' 3 3 ≠ 6#3 → b.extractLsb' 3 3 ≠ 7#3 →
        decode d32 (0x0F :: op :: b :: rest) = .error (.reservedRegister (b.extractLsb' 3 3)))

/-! ## The step -/

/-- A step runs the instruction that decodes at CS:EIP (10_state.md R22; 20_memory.md R89); a REP MOVS between two iterations goes on without
a fetch (43 R208; log 13). The hold-off of interrupts ends with the step that ends the instruction: every step but one of a REP MOVS with
more than one iteration to come, which leaves it (42 R174). That no interrupt comes first, and the hold-off, are 60_exceptions.md R261 and
R264, 42 R174 and 70 R305; the order of the inputs, and to have the hold-off, which R305 leaves open, are the model's (log 11, log 12). -/
def Obligations.StepRunsDecoded : Prop :=
  (∀ (s : State) (i : Instr), Undisturbed s → s.prefetchStale = false →
      decode s.code32 (s.readable s.fetchAddr s.fetchRoom).1 = .ok i →
      ((∀ h wide, i = .repMovs h wide → (s.reg h.as.bits .ecx).toNat ≤ 1) → step s = exec i s.endHoldOff) ∧
      ∀ h wide, i = .repMovs h wide → 1 < (s.reg h.as.bits .ecx).toNat → step s = exec i s) ∧
    ∀ (s : State) (r : Repeat), s.run = .running → s.inputs.reset = none → NoInterrupt s → s.repeating = some r →
      step s = exec (.repMovs r.hdr r.wide) (if (s.reg r.hdr.as.bits .ecx).toNat ≤ 1 then s.endHoldOff else s)

/-- A step runs the instruction whose encoding stands in memory at CS:EIP (R22, R89; 30_encoding.md R100), and ends the
hold-off of interrupts unless it is a REP MOVS with more than one iteration to come. That no interrupt comes first, and the hold-off, are
60_exceptions.md R261 and R264, 42 R174 and 70 R305; the order of the inputs, and to have the hold-off, are the model's (log 11, log 12). -/
def Obligations.StepRunsEncoded : Prop :=
  ∀ (s : State) (i : Instr), Undisturbed s → s.prefetchStale = false → i.wf s.code32 = true → i.length ≤ s.fetchRoom →
    Present s s.fetchAddr i.length →
    (∀ k, k < i.length → s.byteAt (s.fetchAddr + BitVec.ofNat 32 k) = (encode i).getD k 0) →
    ((∀ h wide, i = .repMovs h wide → (s.reg h.as.bits .ecx).toNat ≤ 1) → step s = exec i s.endHoldOff) ∧
    ∀ h wide, i = .repMovs h wide → 1 < (s.reg h.as.bits .ecx).toNat → step s = exec i s

/-- After a change of PE or PG only one of the four JMP forms runs, and every JMP ends the condition (70_reset_and_hazards.md R299, R300;
40_control_transfers.md R137). The source says that a JMP discards the queue; that any other instruction is refused, and which forms count as
the JMP, are decisions of the spec that the model follows (92_eei_decisions.md D16, D17; log 26). -/
def Obligations.PrefetchRule : Prop :=
  (∀ (s : State) (i : Instr), Undisturbed s → s.prefetchStale = true → s.fetch = .ok i →
      ((∀ h rel, i ≠ .jmpRel8 h rel) ∧ (∀ h rel, i ≠ .jmpRel h rel) ∧ (∀ h o q, i ≠ .jmpFar h o q) ∧ (∀ h m, i ≠ .jmpFarMem h m) →
        step s = .refused .prefetchStale) ∧
      ((∃ h rel, i = .jmpRel8 h rel) ∨ (∃ h rel, i = .jmpRel h rel) ∨ (∃ h o q, i = .jmpFar h o q) ∨ (∃ h m, i = .jmpFarMem h m) →
        step s = exec i s.endHoldOff ∧ ∀ t, step s = .next t → t.prefetchStale = false)) ∧
    ∀ (s t : State) (h : Hdr) (r : Reg), exec (.movCr0R h r) s = .next t → t.pe ≠ s.pe ∨ t.pg ≠ s.pg → t.prefetchStale = true

/-- A far transfer in real-address mode makes the base of CS 16 times the selector: the next fetch is below 10FFF0H, in the low megabyte for
selectors up to F000H; the base of the reset does not come back except by RESET (40_control_transfers.md R138). -/
def Obligations.FarDropsLow : Prop :=
  (∀ (s t : State) (h : Hdr) (i : Instr), s.pe = false → h.os = .s16 →
      (∃ off sel, i = .jmpFar h off sel) ∨ (∃ m, i = .jmpFarMem h m) ∨ (∃ off sel, i = .callFar h off sel) ∨
        (∃ m, i = .callFarMem h m) → exec i s = .next t →
      t.seg.cs.base = t.seg.cs.sel.setWidth 32 * 16 ∧ t.fetchAddr.toNat < 0x10FFF0 ∧
        (t.seg.cs.sel.toNat ≤ 0xF000 → t.fetchAddr.toNat < 0x100000)) ∧
    ∀ s t : State, s.inputs.reset = none → s.seg.cs.base ≠ 0xFFFF0000 → step s = .next t → t.seg.cs.base ≠ 0xFFFF0000

/-! ## Reset, interrupts, shutdown -/

/-- The RESET event, in any run state, leaves the state that R291 lists, whatever the undefined registers hold. Among it are decisions of the
spec: hidden bases and limits (10_state.md R45, R46; D3, D6, D7), CR0 bits 3:1 (R42; D8), V = 0 in every TLB entry (R50; D11). That RESET
comes before every other input is log 11, that the platform stays as it was log 37. -/
def Obligations.ResetFunction : Prop :=
  ∀ (s : State) (p : ResetParams), s.inputs.reset = some p → ∃ t, step s = .next t ∧
    (∀ v, p.selftest = some v → t.gpr.eax = v) ∧
    t.gpr.edx.extractLsb' 8 8 = 0x03#8 ∧ t.gpr.edx.extractLsb' 0 8 = p.steppingId ∧
    t.pe = false ∧ t.pg = false ∧ t.cr0.getLsbD 4 = p.coprocessorIs80387 ∧
    t.cr0.getLsbD 1 = false ∧ t.cr0.getLsbD 2 = false ∧ t.cr0.getLsbD 3 = false ∧
    t.eflags.toWord = 0x00000002 ∧ t.eip = 0x0000FFF0 ∧
    t.seg.cs.sel = p.csSelector ∧ t.seg.cs.base = 0xFFFF0000 ∧ t.seg.cs.limit = 0xFFFF ∧
    (∀ q, q ≠ .cs → (t.seg.get q).sel = 0 ∧ (t.seg.get q).base = 0 ∧ (t.seg.get q).limit = 0xFFFF) ∧
    t.idtr = ⟨0, 0x03FF⟩ ∧
    (∀ b i, (Tlb.entry t.tlb b i).v = false ∧ (Tlb.entry t.tlb b i).written = false) ∧
    t.prefetchStale = false ∧ t.tlbMark = .clean ∧ t.cpl = 0 ∧ t.run = .running ∧ t.repeating = none ∧
    t.mem = s.mem ∧ t.memMap = s.memMap ∧ t.trLayout = s.trLayout ∧ t.tlbIndexTable = s.tlbIndexTable ∧ t.ports = s.ports

/-- After RESET the first instruction is fetched at FFFFFFF0H, and while CS keeps the base of the reset a near transfer stays in the upper
64K (20_memory.md R74; 70_reset_and_hazards.md R292). -/
def Obligations.UpperFetchAfterReset : Prop :=
  (∀ (s t : State) (p : ResetParams), s.inputs.reset = some p → step s = .next t → t.fetchAddr = 0xFFFFFFF0) ∧
    ∀ (s t : State) (h : Hdr) (i : Instr), s.seg.cs.base = 0xFFFF0000 → s.pe = false → h.os = .s16 →
      (∃ rel, i = .jmpRel8 h rel) ∨ (∃ rel, i = .jmpRel h rel) ∨ (∃ rel, i = .jnzRel8 h rel) → exec i s = .next t →
      0xFFFF0000 ≤ t.fetchAddr.toNat

/-- An exception, an NMI or an accepted interrupt shuts the processor down when IDTR.limit is 0 (60_exceptions.md R262), also between two
iterations of a REP MOVS, with EIP still at it (43 R208; log 13). The refusal otherwise is the spec's decision (R266; D18; log 9); that a
waiting NMI comes before the maskable request, and both before the instruction, is the model's order (log 11). -/
def Obligations.ZeroLimitShutsDown : Prop :=
  (∀ (s : State) (e : Exc), conclude s (raise e) =
      if s.idtr.limit = 0 then .next { s with run := .shutdown } else .refused (.delivery (.exception e))) ∧
    (∀ s : State, s.run = .running → s.inputs.reset = none → s.holdOff = false → s.inputs.nmi = true →
      step s = if s.idtr.limit = 0 then
          .next { s with run := .shutdown, repeating := none, inputs := { s.inputs with nmi := false } }
        else .refused (.delivery .nmi)) ∧
    ∀ s : State, s.run = .running → s.inputs.reset = none → s.holdOff = false → s.inputs.nmi = false → s.inputs.intr = true →
      s.eflags.ifl = true →
      step s = if s.idtr.limit = 0 then .next { s with run := .shutdown, repeating := none } else .refused (.delivery .interrupt)

/-- In shutdown and in halted no instruction executes: the run ends there unless a RESET comes, whatever interrupt waits; an NMI in shutdown
is refused (R272, R273; 40_control_transfers.md R136). That halted is final is the spec's decision (D35), as is the treatment of shutdown
(D19); the names of the stops are the model's (log 10). -/
def Obligations.QuietStates : Prop :=
  (∀ s : State, s.run = .shutdown → s.inputs.reset = none →
      step s = if s.inputs.nmi then .refused .nmiInShutdown else .fault .shutdown) ∧
    ∀ s : State, s.run = .halted → s.inputs.reset = none → step s = .fault .halted

/-! ## Exceptions that instructions raise -/

/-- The test registers are privileged: in protected mode at a level other than 0 their moves raise general protection, in real-address mode
and at level 0 they do not (44_test_register_moves.md R237). -/
def Obligations.TestRegisterPrivilege : Prop :=
  ∀ (s : State) (h : Hdr) (r : Reg) (i : Instr), i = .movRTr6 h r ∨ i = .movRTr7 h r ∨ i = .movTr6R h r ∨ i = .movTr7R h r →
    (s.pe = true → s.cpl ≠ 0 → exec i s = takeEvent (.exception (.generalProtection 0)) s) ∧
      (Privileged s → (∀ ev, exec i s ≠ .refused (.delivery ev)) ∧ ∀ t, exec i s = .next t → t.run = s.run)

/-- The other privileged instructions raise general protection in protected mode at a level other than 0 (60_exceptions.md R260, R271). -/
def Obligations.PrivilegedInstructions : Prop :=
  ∀ (s : State) (h : Hdr) (r : Reg) (m : Mem) (rm : RM Reg) (i : Instr),
    i = .movRCr0 h r ∨ i = .movCr0R h r ∨ i = .movRCr3 h r ∨ i = .movCr3R h r ∨ i = .lgdt h m ∨ i = .lidt h m ∨ i = .ltr h rm ∨
      i = .hlt h →
    s.pe = true → s.cpl ≠ 0 → exec i s = takeEvent (.exception (.generalProtection 0)) s

/-- Above IOPL in protected mode CLI raises general protection and OUT is refused; a MOV to CS is an invalid opcode in either mode, LAR and
LTR are one in real-address mode (43 R204, R205; 42_descriptor_tables_and_segments.md R172 to R174). -/
def Obligations.IoplAndModeTraps : Prop :=
  (∀ (s : State) (h : Hdr), s.pe = true → s.eflags.iopl < s.cpl →
      exec (.cli h) s = takeEvent (.exception (.generalProtection 0)) s ∧
        ∀ port, exec (.outImm8Al h port) s = .refused .ioPermission) ∧
    (∀ (s : State) (h : Hdr) (rm : RM Reg), exec (.movSregRm h .cs rm) s = takeEvent (.exception .invalidOpcode) s) ∧
    ∀ (s : State) (h : Hdr) (r : Reg) (rm : RM Reg), s.pe = false →
      exec (.ltr h rm) s = takeEvent (.exception .invalidOpcode) s ∧ exec (.lar h r rm) s = takeEvent (.exception .invalidOpcode) s

/-- PG cannot be set without PE; it can be set together with PE or later (41_control_register_moves.md R155). That the forbidden write raises
general protection, and that a write that clears PE is refused, are decisions of the spec (R155, D21; R156, D31). -/
def Obligations.PagingNeedsProtection : Prop :=
  ∀ (s : State) (h : Hdr) (r : Reg), Privileged s →
    ((s.reg 32 r).getLsbD 31 = true → (s.reg 32 r).getLsbD 0 = false →
      exec (.movCr0R h r) s = takeEvent (.exception (.generalProtection 0)) s) ∧
    ((s.reg 32 r).getLsbD 31 = true → (s.reg 32 r).getLsbD 0 = true →
      ∃ t, exec (.movCr0R h r) s = .next t ∧ t.pg = true ∧ t.pe = true) ∧
    (s.pe = true → (s.reg 32 r).getLsbD 31 = false → (s.reg 32 r).getLsbD 0 = false →
      exec (.movCr0R h r) s = .refused .leavesProtectedMode)

/-- A MOV to a segment register in protected mode: refused before GDTR is loaded; a null selector for SS raises general protection with
error code 0, one beyond the limit of the GDT raises it with the selector; one into the LDT is refused; a descriptor is refused that is not
present, no code or data segment, for SS not writable data, for the others code that cannot be read, or not of suitable privilege (42 R175;
70 R296). What privilege is suitable is presumed (log 17). -/
def Obligations.SegmentLoadStops : Prop :=
  (∀ (sr : SReg) (a : Byte) (cpl rpl : BitVec 2), segmentOk sr a cpl rpl = true ↔
      a.getLsbD 7 = true ∧ a.getLsbD 4 = true ∧
        (sr = .ss → a.getLsbD 3 = false ∧ a.getLsbD 1 = true ∧ rpl = cpl ∧ a.extractLsb' 5 2 = cpl) ∧
        (sr ≠ .ss → (a.getLsbD 3 = true → a.getLsbD 1 = true) ∧
          (a.getLsbD 3 = false ∨ a.getLsbD 2 = false → cpl ≤ a.extractLsb' 5 2 ∧ rpl ≤ a.extractLsb' 5 2))) ∧
  ∀ (s : State) (h : Hdr) (sr : SReg) (rm : RM Reg), s.pe = true → sr ≠ .cs → RmReady s h rm 2 →
    (s.gdtrLoaded = false → exec (.movSregRm h sr rm) s = .refused .segmentLoadBeforeGdtr) ∧
    (s.gdtrLoaded = true →
      (sr = .ss → selNull (rmValue 16 s h rm) = true →
        exec (.movSregRm h sr rm) s = takeEvent (.exception (.generalProtection 0)) s) ∧
      (selNull (rmValue 16 s h rm) = false → selLdt (rmValue 16 s h rm) = true →
        exec (.movSregRm h sr rm) s = .refused .ldtSelector) ∧
      (selNull (rmValue 16 s h rm) = false → selLdt (rmValue 16 s h rm) = false →
        s.gdtr.limit.toNat < (selOffset (rmValue 16 s h rm)).toNat + 7 →
        exec (.movSregRm h sr rm) s = takeEvent (.exception (.generalProtection (rmValue 16 s h rm))) s) ∧
      (GdtEntry s (rmValue 16 s h rm) →
        segmentOk sr (s.byteAt (s.gdtAddr (rmValue 16 s h rm) + 5)) s.cpl ((rmValue 16 s h rm).extractLsb' 0 2) = false →
        exec (.movSregRm h sr rm) s = .refused .descriptorCheck))

/-- LTR on a selector outside the GDT, or on a descriptor that is not an available TSS, raises general protection with the selector
(42 R172; log 19). -/
def Obligations.LtrTraps : Prop :=
  ∀ (s : State) (h : Hdr) (rm : RM Reg), s.pe = true → s.cpl = 0 → RmReady s h rm 2 →
    (s.gdtr.limit.toNat < (selOffset (rmValue 16 s h rm)).toNat + 7 →
      exec (.ltr h rm) s = takeEvent (.exception (.generalProtection (rmValue 16 s h rm))) s) ∧
    ((selOffset (rmValue 16 s h rm)).toNat + 7 ≤ s.gdtr.limit.toNat → Present s (s.gdtAddr (rmValue 16 s h rm)) 8 →
      ((s.byteAt (s.gdtAddr (rmValue 16 s h rm) + 5)).getLsbD 7 = false ∨
        (s.byteAt (s.gdtAddr (rmValue 16 s h rm) + 5)).extractLsb' 0 5 ≠ 9#5 ∧
          (s.byteAt (s.gdtAddr (rmValue 16 s h rm) + 5)).extractLsb' 0 5 ≠ 1#5) →
      exec (.ltr h rm) s = takeEvent (.exception (.generalProtection (rmValue 16 s h rm))) s)

/-- Every far JMP and CALL in protected mode is refused, direct or through memory, whatever its selector: before GDTR is loaded as that; then
as a task switch when the selector names a TSS of the GDT, otherwise as a far transfer. A far CALL in real-address mode is refused until SS
has been loaded (40_control_transfers.md R132 to R134, R139; 70 R293, R296). Which types are a TSS, and the names of the refusals, are the
model's (log 21). -/
def Obligations.FarTransferStops : Prop :=
  (∀ (s : State) (h : Hdr) (i : Instr), s.pe = true →
      (∃ off sel, i = .jmpFar h off sel ∨ i = .callFar h off sel) ∨ (∃ m, i = .jmpFarMem h m ∨ i = .callFarMem h m) →
      ∃ r, exec i s = .refused r) ∧
    (∀ (s : State) (h : Hdr) (i : Instr) (sel : Word16), s.pe = true →
      (∃ off, i = .jmpFar h off sel ∨ i = .callFar h off sel) ∨
        (∃ m, (i = .jmpFarMem h m ∨ i = .callFarMem h m) ∧ AddrReady s (operandAddr s h m) (h.os.bytes + 2) ∧
          sel = BitVec.ofNat 16 (s.valueAt (addrOf (operandAddr s h m) + BitVec.ofNat 32 h.os.bytes) 2)) →
      (s.gdtrLoaded = false → exec i s = .refused .segmentLoadBeforeGdtr) ∧
      (s.gdtrLoaded = true →
        (selNull sel = true ∨ selLdt sel = true ∨ s.gdtr.limit.toNat < (selOffset sel).toNat + 7 →
          exec i s = .refused .protectedFarTransfer) ∧
        (GdtEntry s sel → exec i s =
          if (s.byteAt (s.gdtAddr sel + 5)).extractLsb' 0 5 ∈ [1#5, 3#5, 9#5, 0xB#5] then .refused .taskSwitch
          else .refused .protectedFarTransfer))) ∧
    ∀ (s : State) (h : Hdr) (i : Instr), s.pe = false → s.ssLoaded = false →
      (∃ off sel, i = .callFar h off sel) ∨ (∃ m, i = .callFarMem h m ∧ AddrReady s (operandAddr s h m) (h.os.bytes + 2)) →
      exec i s = .refused .stackBeforeSs

/-- The TLB commands the spec refuses: with paging on; while the mark of duplicate tags covers the command; a write with HT = 0; a lookup
with V = 0 while an entry is uninitialised; a pair that is not complementary (44 R234 to R236, R240 to R242). Where C, V and the pairs lie
is the layout of the part (log 7); which commands the mark covers is log 24, and the order of the checks log 25. -/
def Obligations.TlbCommandStops : Prop :=
  ∀ (s : State) (h : Hdr) (r : Reg) (x : DWord), x = s.reg 32 r → Privileged s →
    (s.pg = true → exec (.movTr6R h r) s = .refused .tlbTestWithPaging) ∧
    (s.pg = false → s.tlbMark = .undefined ∨ s.tlbMark = .undefinedV0 ∧ x.getLsbD s.trLayout.v = false →
      exec (.movTr6R h r) s = .refused .tlbUndefined) ∧
    (CommandReady s x →
      (x.getLsbD s.trLayout.c = false → s.tr7.ht = false → exec (.movTr6R h r) s = .refused .tlbWriteHtClear) ∧
      (x.getLsbD s.trLayout.c = true → x.getLsbD s.trLayout.v = false → (∃ b i, (Tlb.entry s.tlb b i).written = false) →
        exec (.movTr6R h r) s = .refused .tlbUninitialisedTags) ∧
      ((x.getLsbD s.trLayout.c = false ∧ s.tr7.ht = true) ∨ (x.getLsbD s.trLayout.c = true ∧ x.getLsbD s.trLayout.v = true) →
        ¬ PairsFormed s.trLayout x → exec (.movTr6R h r) s = .refused .tlbPairIllFormed))

/-! ## Addresses -/

/-- The linear address of a memory operand: the base of its segment plus an offset that is, under 16-bit addressing, a sum modulo 2^16, and
under 32-bit addressing base + index * 2^scale + displacement modulo 2^32; an 8-bit displacement is sign-extended (30_encoding.md R104 to
R106; 20_memory.md R73). The segment is that of an override, otherwise SS for a base BP, EBP or ESP and DS for any other (R101, R104, R105);
that the last of several overrides counts is the model's (log 14). -/
def Obligations.EffectiveAddress : Prop :=
  ∀ s : State,
    (∀ (h : Hdr) (m : Mem) (r : SReg), OperandSegment h (memSeg m) r → (s.seg.get r).usable = true →
      operandAddr s h m = .ok ((s.seg.get r).base + memOffset s m)) ∧
    (∀ (b : Base16) (d : Disp 16), memSeg (.based16 b d) = if b = .bpSi ∨ b = .bpDi ∨ b = .bp then .ss else .ds) ∧
    (∀ d, memSeg (.direct16 d) = .ds) ∧ (∀ d, memSeg (.direct32 d) = .ds) ∧
    (∀ (b : Reg) (d : Disp 32), memSeg (.based32 b d) = if b = .esp ∨ b = .ebp then .ss else .ds) ∧
    (∀ (k : BitVec 2) (x : Option Reg) (b : Reg) (d : Disp 32), memSeg (.sib k x b d) = if b = .esp ∨ b = .ebp then .ss else .ds) ∧
    (∀ (k : BitVec 2) (x : Option Reg) (d : BitVec 32), memSeg (.sibNoBase k x d) = .ds) ∧
    (∀ d : Byte, (dispValue (.d8 d : Disp 16)).toInt = d.toInt ∧ (dispValue (.d8 d : Disp 32)).toInt = d.toInt) ∧
    (∀ d : BitVec 16, dispValue (.full d) = d) ∧ (∀ d : BitVec 32, dispValue (.full d) = d) ∧
    dispValue (.zero : Disp 16) = 0 ∧ dispValue (.zero : Disp 32) = 0 ∧
    (∀ d : Disp 16,
      (memOffset s (.based16 .bxSi d)).toNat = ((s.reg 16 .ebx).toNat + (s.reg 16 .esi).toNat + (dispValue d).toNat) % 65536 ∧
      (memOffset s (.based16 .bxDi d)).toNat = ((s.reg 16 .ebx).toNat + (s.reg 16 .edi).toNat + (dispValue d).toNat) % 65536 ∧
      (memOffset s (.based16 .bpSi d)).toNat = ((s.reg 16 .ebp).toNat + (s.reg 16 .esi).toNat + (dispValue d).toNat) % 65536 ∧
      (memOffset s (.based16 .bpDi d)).toNat = ((s.reg 16 .ebp).toNat + (s.reg 16 .edi).toNat + (dispValue d).toNat) % 65536 ∧
      (memOffset s (.based16 .si d)).toNat = ((s.reg 16 .esi).toNat + (dispValue d).toNat) % 65536 ∧
      (memOffset s (.based16 .di d)).toNat = ((s.reg 16 .edi).toNat + (dispValue d).toNat) % 65536 ∧
      (memOffset s (.based16 .bp d)).toNat = ((s.reg 16 .ebp).toNat + (dispValue d).toNat) % 65536 ∧
      (memOffset s (.based16 .bx d)).toNat = ((s.reg 16 .ebx).toNat + (dispValue d).toNat) % 65536) ∧
    (∀ d : BitVec 16, (memOffset s (.direct16 d)).toNat = d.toNat) ∧
    (∀ d : BitVec 32, (memOffset s (.direct32 d)).toNat = d.toNat) ∧
    (∀ (b : Reg) (d : Disp 32), (memOffset s (.based32 b d)).toNat = ((s.gpr.get b).toNat + (dispValue d).toNat) % 2 ^ 32) ∧
    (∀ (k : BitVec 2) (x b : Reg) (d : Disp 32), (memOffset s (.sib k (some x) b d)).toNat =
      ((s.gpr.get b).toNat + (s.gpr.get x).toNat * 2 ^ k.toNat + (dispValue d).toNat) % 2 ^ 32) ∧
    (∀ (k : BitVec 2) (b : Reg) (d : Disp 32), (memOffset s (.sib k none b d)).toNat =
      ((s.gpr.get b).toNat + (dispValue d).toNat) % 2 ^ 32) ∧
    (∀ (k : BitVec 2) (x : Reg) (d : BitVec 32), (memOffset s (.sibNoBase k (some x) d)).toNat =
      ((s.gpr.get x).toNat * 2 ^ k.toNat + d.toNat) % 2 ^ 32) ∧
    (∀ (k : BitVec 2) (d : BitVec 32), (memOffset s (.sibNoBase k none d)).toNat = d.toNat)

/-! ## NOP and MOV -/

/-- NOP changes EIP only (43 R190), and EIP goes on by the length of an instruction, modulo 2^16 in 16-bit code and modulo 2^32 in 32-bit
code (10_state.md R22); code is 32-bit in protected mode with the D bit of CS set (30_encoding.md R102). -/
def Obligations.NopCompletes : Prop :=
  (∀ (s : State) (h : Hdr), ∃ t, exec (.nop h) s = .next t ∧ SameData s t ∧ DataOnly s t (Instr.nop h).length) ∧
    ∀ (s : State) (n : Nat),
      (s.pe = true → s.seg.cs.gran.getLsbD 2 = true → (s.nextEip n).toNat = (s.eip.toNat + n) % 2 ^ 32) ∧
      (s.pe = false ∨ s.seg.cs.gran.getLsbD 2 = false → (s.nextEip n).toNat = (s.eip.toNat + n) % 2 ^ 16)

/-- The views of the general registers: the word registers are bits 15:0, AH, CH, DH and BH bits 15:8, AL, CL, DL and BL bits 7:0; a write to
a view changes only that view's bits (10_state.md R21). MOV of an immediate writes a register or view and nothing else. -/
def Obligations.MovImmediate : Prop :=
  (∀ s : State, (∀ r, s.reg 32 r = s.gpr.get r) ∧ (∀ r, s.reg 16 r = (s.gpr.get r).extractLsb' 0 16) ∧
      (∀ r v, RegWritten 16 s (s.setReg 16 r v) r v) ∧
      ∀ e ∈ byteViews, s.reg8 e.1 = (s.gpr.get e.2.1).extractLsb' e.2.2 8 ∧ ∀ v : Byte,
        (∀ k, ((s.setReg8 e.1 v).gpr.get e.2.1).getLsbD k =
          if e.2.2 ≤ k ∧ k < e.2.2 + 8 then v.getLsbD (k - e.2.2) else (s.gpr.get e.2.1).getLsbD k) ∧
        ∀ q, q ≠ e.2.1 → (s.setReg8 e.1 v).gpr.get q = s.gpr.get q) ∧
    (∀ (s : State) (h : Hdr) (r : Reg8) (imm : Byte), ∃ t, exec (.movR8Imm8 h r imm) s = .next t ∧ Reg8Written s t r imm ∧
      SameBytes s t ∧ DataOnly s t (Instr.movR8Imm8 h r imm).length) ∧
    ∀ (s : State) (h : Hdr) (r : Reg) (imm : DWord), ∃ t, exec (.movRImm h r imm) s = .next t ∧
      RegWritten h.os.bits s t r (imm.setWidth h.os.bits) ∧ SameBytes s t ∧ DataOnly s t (Instr.movRImm h r imm).length

/-- MOV to a register-or-memory operand, from an immediate or a register (43 R193, R194). -/
def Obligations.MovToOperand : Prop :=
  ∀ (s : State) (h : Hdr), s.mem.wf = true →
    (∀ (rm : RM Reg8) (imm : Byte), RmReady s h rm 1 → ∃ t, exec (.movRm8Imm8 h rm imm) s = .next t ∧
      RmWritten8 s t h rm imm ∧ DataOnly s t (Instr.movRm8Imm8 h rm imm).length) ∧
    (∀ (rm : RM Reg8) (r : Reg8), RmReady s h rm 1 → ∃ t, exec (.movRm8R8 h rm r) s = .next t ∧
      RmWritten8 s t h rm (s.reg8 r) ∧ DataOnly s t (Instr.movRm8R8 h rm r).length) ∧
    (∀ (rm : RM Reg) (imm : DWord), RmReady s h rm h.os.bytes → ∃ t, exec (.movRmImm h rm imm) s = .next t ∧
      RmWritten h.os.bits s t h rm (imm.setWidth h.os.bits) ∧ DataOnly s t (Instr.movRmImm h rm imm).length) ∧
    (∀ (rm : RM Reg) (r : Reg), RmReady s h rm h.os.bytes → ∃ t, exec (.movRmR h rm r) s = .next t ∧
      RmWritten h.os.bits s t h rm (s.reg h.os.bits r) ∧ DataOnly s t (Instr.movRmR h rm r).length)

/-- MOV from a register-or-memory operand to a register (43 R195). -/
def Obligations.MovFromOperand : Prop :=
  ∀ (s : State) (h : Hdr),
    (∀ (r : Reg8) (rm : RM Reg8), RmReady s h rm 1 → ∃ t, exec (.movR8Rm8 h r rm) s = .next t ∧
      Reg8Written s t r (rmValue8 s h rm) ∧ SameBytes s t ∧ DataOnly s t (Instr.movR8Rm8 h r rm).length) ∧
    (∀ (r : Reg) (rm : RM Reg), RmReady s h rm h.os.bytes → ∃ t, exec (.movRRm h r rm) s = .next t ∧
      RegWritten h.os.bits s t r (rmValue h.os.bits s h rm) ∧ SameBytes s t ∧ DataOnly s t (Instr.movRRm h r rm).length)

/-- MOV between the accumulator and memory at an offset in DS or the segment of an override (43 R196; 30_encoding.md R101, R106; of several
overrides the last, log 14). -/
def Obligations.MovMoffs : Prop :=
  ∀ (s : State) (h : Hdr) (off : DWord),
    (∀ r : SReg, OperandSegment h .ds r → (s.seg.get r).usable = true → moffsAddr s h off = .ok ((s.seg.get r).base + off)) ∧
    (AddrReady s (moffsAddr s h off) 1 → ∃ t, exec (.movAlMoffs h off) s = .next t ∧
      Reg8Written s t .al (s.byteAt (addrOf (moffsAddr s h off))) ∧ SameBytes s t ∧ DataOnly s t (Instr.movAlMoffs h off).length) ∧
    (AddrReady s (moffsAddr s h off) h.os.bytes → ∃ t, exec (.movAxMoffs h off) s = .next t ∧
      RegWritten h.os.bits s t .eax (BitVec.ofNat h.os.bits (s.valueAt (addrOf (moffsAddr s h off)) h.os.bytes)) ∧
      SameBytes s t ∧ DataOnly s t (Instr.movAxMoffs h off).length) ∧
    (s.mem.wf = true → AddrReady s (moffsAddr s h off) 1 → ∃ t, exec (.movMoffsAl h off) s = .next t ∧ t.gpr = s.gpr ∧
      Stored s t (addrOf (moffsAddr s h off)) 1 (s.reg8 .al).toNat ∧ DataOnly s t (Instr.movMoffsAl h off).length) ∧
    (s.mem.wf = true → AddrReady s (moffsAddr s h off) h.os.bytes → ∃ t, exec (.movMoffsAx h off) s = .next t ∧ t.gpr = s.gpr ∧
      Stored s t (addrOf (moffsAddr s h off)) h.os.bytes (s.reg h.os.bits .eax).toNat ∧
      DataOnly s t (Instr.movMoffsAx h off).length)

/-! ## Arithmetic -/

/-- XOR: the result, CF and OF clear, ZF, SF and PF of the result; AF may be anything (43 R197, R198, R209). -/
def Obligations.XorResult : Prop :=
  ∀ (s : State) (h : Hdr),
    (∀ imm : Byte, ∃ t, exec (.xorAlImm8 h imm) s = .next t ∧ Reg8Written s t .al (s.reg8 .al ^^^ imm) ∧ SameBytes s t ∧
      ResultFlags (s.reg8 .al ^^^ imm) t.eflags ∧ t.eflags.cf = false ∧ t.eflags.of = false ∧
      DataAndFlags s t (Instr.xorAlImm8 h imm).length) ∧
    (∀ (rm : RM Reg) (r : Reg), s.mem.wf = true → RmReady s h rm h.os.bytes → ∃ t, exec (.xorRmR h rm r) s = .next t ∧
      RmWritten h.os.bits s t h rm (rmValue h.os.bits s h rm ^^^ s.reg h.os.bits r) ∧
      ResultFlags (rmValue h.os.bits s h rm ^^^ s.reg h.os.bits r) t.eflags ∧ t.eflags.cf = false ∧ t.eflags.of = false ∧
      DataAndFlags s t (Instr.xorRmR h rm r).length) ∧
    (∀ (r : Reg) (rm : RM Reg), RmReady s h rm h.os.bytes → ∃ t, exec (.xorRRm h r rm) s = .next t ∧
      RegWritten h.os.bits s t r (s.reg h.os.bits r ^^^ rmValue h.os.bits s h rm) ∧ SameBytes s t ∧
      ResultFlags (s.reg h.os.bits r ^^^ rmValue h.os.bits s h rm) t.eflags ∧ t.eflags.cf = false ∧ t.eflags.of = false ∧
      DataAndFlags s t (Instr.xorRRm h r rm).length)

/-- INC and DEC: the register plus or minus one modulo 2^w; CF as before; OF at the largest positive number for INC and the most negative
for DEC; AF at a low nibble of FH for INC and of 0 for DEC (43 R199, R200, R209). -/
def Obligations.IncDecResult : Prop :=
  ∀ (s : State) (h : Hdr) (r : Reg),
    (∃ t, exec (.incR h r) s = .next t ∧
      RegWritten h.os.bits s t r (BitVec.ofNat h.os.bits ((s.reg h.os.bits r).toNat + 1)) ∧ SameBytes s t ∧
      ResultFlags (BitVec.ofNat h.os.bits ((s.reg h.os.bits r).toNat + 1)) t.eflags ∧ t.eflags.cf = s.eflags.cf ∧
      t.eflags.of = decide ((s.reg h.os.bits r).toNat = 2 ^ (h.os.bits - 1) - 1) ∧
      t.eflags.af = decide ((s.reg h.os.bits r).toNat % 16 = 15) ∧ DataAndFlags s t (Instr.incR h r).length) ∧
    (∃ t, exec (.decR h r) s = .next t ∧
      RegWritten h.os.bits s t r (BitVec.ofNat h.os.bits ((s.reg h.os.bits r).toNat + (2 ^ h.os.bits - 1))) ∧ SameBytes s t ∧
      ResultFlags (BitVec.ofNat h.os.bits ((s.reg h.os.bits r).toNat + (2 ^ h.os.bits - 1))) t.eflags ∧
      t.eflags.cf = s.eflags.cf ∧ t.eflags.of = decide ((s.reg h.os.bits r).toNat = 2 ^ (h.os.bits - 1)) ∧
      t.eflags.af = decide ((s.reg h.os.bits r).toNat % 16 = 0) ∧ DataAndFlags s t (Instr.decR h r).length)

/-- SHL by the immediate modulo 32: a count of 0 changes nothing; otherwise the result, CF the last bit out for a count up to the width,
OF for a count of 1, ZF, SF and PF; the other flags it writes may be anything (43 R201, R209). -/
def Obligations.ShlResult : Prop :=
  ∀ (s : State) (h : Hdr) (rm : RM Reg) (imm : Byte),
    (imm.toNat % 32 = 0 → ∃ t, exec (.shlRmImm8 h rm imm) s = .next t ∧ SameData s t ∧
      DataOnly s t (Instr.shlRmImm8 h rm imm).length) ∧
    (imm.toNat % 32 ≠ 0 → s.mem.wf = true → RmReady s h rm h.os.bytes → ∃ t, exec (.shlRmImm8 h rm imm) s = .next t ∧
      RmWritten h.os.bits s t h rm (BitVec.ofNat h.os.bits ((rmValue h.os.bits s h rm).toNat * 2 ^ (imm.toNat % 32))) ∧
      ResultFlags (BitVec.ofNat h.os.bits ((rmValue h.os.bits s h rm).toNat * 2 ^ (imm.toNat % 32))) t.eflags ∧
      (imm.toNat % 32 ≤ h.os.bits → t.eflags.cf = (rmValue h.os.bits s h rm).getLsbD (h.os.bits - imm.toNat % 32)) ∧
      (imm.toNat % 32 = 1 → t.eflags.of = (t.eflags.sf ^^ t.eflags.cf)) ∧
      DataAndFlags s t (Instr.shlRmImm8 h rm imm).length)

/-- SHR by one and by the immediate modulo 32: a count of 0 changes nothing; otherwise the result, CF the last bit out for a count up to the
width, OF the old top bit for a count of 1, ZF, SF and PF; the other flags it writes may be anything (43 R202, R203, R209). -/
def Obligations.ShrResult : Prop :=
  ∀ (s : State) (h : Hdr) (rm : RM Reg) (imm : Byte),
    (imm.toNat % 32 = 0 → ∃ t, exec (.shrRmImm8 h rm imm) s = .next t ∧ SameData s t ∧
      DataOnly s t (Instr.shrRmImm8 h rm imm).length) ∧
    (imm.toNat % 32 ≠ 0 → s.mem.wf = true → RmReady s h rm h.os.bytes → ∃ t, exec (.shrRmImm8 h rm imm) s = .next t ∧
      RmWritten h.os.bits s t h rm (BitVec.ofNat h.os.bits ((rmValue h.os.bits s h rm).toNat / 2 ^ (imm.toNat % 32))) ∧
      ResultFlags (BitVec.ofNat h.os.bits ((rmValue h.os.bits s h rm).toNat / 2 ^ (imm.toNat % 32))) t.eflags ∧
      (imm.toNat % 32 ≤ h.os.bits → t.eflags.cf = (rmValue h.os.bits s h rm).getLsbD (imm.toNat % 32 - 1)) ∧
      (imm.toNat % 32 = 1 → t.eflags.of = (rmValue h.os.bits s h rm).getLsbD (h.os.bits - 1)) ∧
      DataAndFlags s t (Instr.shrRmImm8 h rm imm).length) ∧
    (s.mem.wf = true → RmReady s h rm h.os.bytes → ∃ t, exec (.shrRm1 h rm) s = .next t ∧
      RmWritten h.os.bits s t h rm (BitVec.ofNat h.os.bits ((rmValue h.os.bits s h rm).toNat / 2)) ∧
      ResultFlags (BitVec.ofNat h.os.bits ((rmValue h.os.bits s h rm).toNat / 2)) t.eflags ∧
      t.eflags.cf = (rmValue h.os.bits s h rm).getLsbD 0 ∧ t.eflags.of = (rmValue h.os.bits s h rm).getLsbD (h.os.bits - 1) ∧
      DataAndFlags s t (Instr.shrRm1 h rm).length)

/-! ## Ports and single flags -/

/-- OUT hands the platform one more port write; CLI clears IF and CLD clears DF, no other flag (43 R204 to R206; 20_memory.md R90). -/
def Obligations.OutCliCld : Prop :=
  ∀ (s : State) (h : Hdr),
    (s.pe = false ∨ s.cpl ≤ s.eflags.iopl →
      (∀ port : Byte, ∃ t, exec (.outImm8Al h port) s = .next t ∧ SameData s t ∧ t.eflags = s.eflags ∧
        t.sys = { s.sys with ports := s.ports ++ [⟨port.setWidth 16, 1, s.reg8 .al⟩] } ∧
        t.eip = s.nextEip (Instr.outImm8Al h port).length) ∧
      (∃ t, exec (.cli h) s = .next t ∧ SameData s t ∧ t.sys = s.sys ∧ t.eflags = { s.eflags with ifl := false } ∧
        t.eip = s.nextEip (Instr.cli h).length)) ∧
    (∃ t, exec (.cld h) s = .next t ∧ SameData s t ∧ t.sys = s.sys ∧ t.eflags = { s.eflags with df := false } ∧
      t.eip = s.nextEip (Instr.cld h).length)

/-! ## String moves -/

/-- MOVS moves one element from DS or the segment of an override at (E)SI to ES at (E)DI and moves both by the element size, up when DF is 0
and down when it is 1 (43 R207). -/
def Obligations.MovsResult : Prop :=
  ∀ (s : State) (h : Hdr) (n : Nat) (i : Instr), (i = .movsB h ∧ n = 1) ∨ (i = .movsW h ∧ n = h.os.bytes) → s.mem.wf = true →
    AddrReady s (s.linear (hdrSegment h .ds) (stringOffset h.as.bits s .esi)) n →
    AddrReady s (s.linear .es (stringOffset h.as.bits s .edi)) n → ∃ t, exec i s = .next t ∧
      Stored s t (addrOf (s.linear .es (stringOffset h.as.bits s .edi))) n
        (s.valueAt (addrOf (s.linear (hdrSegment h .ds) (stringOffset h.as.bits s .esi))) n) ∧
      (∀ q, q = .esi ∨ q = .edi → t.reg h.as.bits q =
          (if s.eflags.df then s.reg h.as.bits q - BitVec.ofNat h.as.bits n else s.reg h.as.bits q + BitVec.ofNat h.as.bits n) ∧
        ∀ k, h.as.bits ≤ k → (t.gpr.get q).getLsbD k = (s.gpr.get q).getLsbD k) ∧
      (∀ q, q ≠ .esi → q ≠ .edi → t.gpr.get q = s.gpr.get q) ∧ DataOnly s t i.length

/-- REP MOVS makes as many moves as the count register `c` says, one in each execution; after `k` of them the count is `c - k`, (E)SI and
(E)DI have moved by `k` elements, and memory is as the copies in their order leave it, overlapping or not: each reads what those before it
have written. EIP stays at the instruction until the count is 0 and is then past it; a count of 0 moves nothing (43 R207, R208). Where no
destination element overlaps a source element or another destination element, each is in the end a copy of its source. That an interrupt can
come between two executions is R208; that a step makes one move is the model's choice, where 70 R308 would allow the whole (log 13). -/
def Obligations.RepMovsResult : Prop :=
  ∀ (s : State) (h : Hdr) (wide : Bool) (n c : Nat) (src dst : Nat → DWord), n = (if wide then h.os.bytes else 1) →
    c = (s.reg h.as.bits .ecx).toNat → src = stringAddr h.as.bits s (hdrSegment h .ds) .esi n →
    dst = stringAddr h.as.bits s .es .edi n → s.mem.wf = true →
    (c ≠ 0 → (s.seg.get (hdrSegment h .ds)).usable = true ∧ s.seg.es.usable = true) →
    (∀ k, k < c → Present s (src k) n ∧ Present s (dst k) n) →
    (c = 0 → ∃ t, exec (.repMovs h wide) s = .next t ∧ SameData s t ∧ t.eflags = s.eflags ∧
      t.eip = s.nextEip (Instr.repMovs h wide).length ∧ t.sys = { s.sys with repeating := none }) ∧
    (c ≠ 0 → ∃ t, exec (.repMovs h wide) s = .next t ∧ execTimes (.repMovs h wide) 1 s = .next t) ∧
    ∀ k, 0 < k → k ≤ c → ∃ t, execTimes (.repMovs h wide) k s = .next t ∧
      (t.reg h.as.bits .ecx).toNat = c - k ∧
      (∀ q, q = .esi ∨ q = .edi →
        t.reg h.as.bits q = s.reg h.as.bits q + BitVec.ofNat h.as.bits k * stringDelta h.as.bits s n) ∧
      (∀ q, q = .ecx ∨ q = .esi ∨ q = .edi → ∀ j, h.as.bits ≤ j → (t.gpr.get q).getLsbD j = (s.gpr.get q).getLsbD j) ∧
      (∀ q, q ≠ .ecx → q ≠ .esi → q ≠ .edi → t.gpr.get q = s.gpr.get q) ∧
      (∀ x, t.byteAt x = copied s.memMap src dst n s.byteAt k x) ∧
      (∀ x, (∀ j, j < k → ¬ within x (dst j) n) → t.byteAt x = s.byteAt x) ∧
      ((∀ i j x, i < k → j < k → within x (dst i) n →
          kindAt s.memMap x.toNat = .ram ∧ ¬ within x (src j) n ∧ (i ≠ j → ¬ within x (dst j) n)) →
        ∀ j x, j < k → within x (dst j) n → t.byteAt x = s.byteAt (src j + (x - dst j))) ∧
      t.eflags = s.eflags ∧ t.eip = (if k = c then s.nextEip (Instr.repMovs h wide).length else s.eip) ∧
      t.sys = { s.sys with repeating := if k = c then none else some ⟨h, wide⟩ }

/-! ## Control transfers -/

/-- A near JMP goes to the EIP of the next instruction plus the displacement, modulo 2^16 under operand size 16, and discards the prefetch
queue (40_control_transfers.md R130, R131, R137). -/
def Obligations.JmpNear : Prop :=
  ∀ (s : State) (h : Hdr) (i : Instr) (d : DWord),
    (∃ rel : Byte, i = .jmpRel8 h rel ∧ d = rel.signExtend 32) ∨ i = .jmpRel h d → ∃ t, exec i s = .next t ∧
      t.eip.toNat = (s.eip.toNat + i.length + d.toNat) % 2 ^ h.os.bits ∧ SameData s t ∧ t.eflags = s.eflags ∧
      t.sys = { s.sys with prefetchStale := false }

/-- A far JMP in real-address mode loads CS with the selector and 16 times it, EIP with the offset, and discards the prefetch queue; the
indirect form reads the offset and then the selector from memory (40 R132, R133, R137; 20_memory.md R84). -/
def Obligations.JmpFarReal : Prop :=
  ∀ (s : State) (h : Hdr), s.pe = false →
    (∀ (off : DWord) (sel : Word16), ∃ t, exec (.jmpFar h off sel) s = .next t ∧
      t.eip = (off.setWidth h.os.bits).setWidth 32 ∧ SameData s t ∧ t.eflags = s.eflags ∧
      t.sys = { s.sys with
        seg := { s.seg with cs := { s.seg.cs with sel := sel, base := sel.setWidth 32 * 16 } }, prefetchStale := false }) ∧
    (∀ (m : Mem) (a : DWord), a = addrOf (operandAddr s h m) → AddrReady s (operandAddr s h m) (h.os.bytes + 2) →
      ∃ t, exec (.jmpFarMem h m) s = .next t ∧ t.eip = BitVec.ofNat 32 (s.valueAt a h.os.bytes) ∧ SameData s t ∧
        t.eflags = s.eflags ∧
        t.sys = { s.sys with
          seg := { s.seg with
            cs := { s.seg.cs with
              sel := BitVec.ofNat 16 (s.valueAt (a + BitVec.ofNat 32 h.os.bytes) 2)
              base := BitVec.ofNat 32 (s.valueAt (a + BitVec.ofNat 32 h.os.bytes) 2 * 16) } }
          prefetchStale := false })

/-- A far CALL in real-address mode with SS loaded pushes CS and then the offset of the next instruction, each in the operand size, moves SP
and no other register, and goes on as a far JMP; the upper half of CS pushed under operand size 32 may be anything (40 R134; log 20). The
indirect form reads its pointer before the pushes, with the old ESP, and the offset pushed under operand size 32 is not reduced modulo 2^16,
by the model's choice (log 41, log 43). -/
def Obligations.CallFarReal : Prop :=
  ∀ (s : State) (h : Hdr) (i : Instr) (off : DWord) (sel : Word16) (a1 a2 : DWord), s.pe = false → s.ssLoaded = true →
    s.mem.wf = true →
    (i = .callFar h off sel ∨ ∃ m, i = .callFarMem h m ∧ AddrReady s (operandAddr s h m) (h.os.bytes + 2) ∧
      off = BitVec.ofNat 32 (s.valueAt (addrOf (operandAddr s h m)) h.os.bytes) ∧
      sel = BitVec.ofNat 16 (s.valueAt (addrOf (operandAddr s h m) + BitVec.ofNat 32 h.os.bytes) 2)) →
    s.linear .ss ((s.reg 16 .esp - BitVec.ofNat 16 h.os.bytes).setWidth 32) = .ok a1 → Present s a1 h.os.bytes →
    s.linear .ss ((s.reg 16 .esp - BitVec.ofNat 16 (2 * h.os.bytes)).setWidth 32) = .ok a2 → Present s a2 h.os.bytes →
    ∃ t, exec i s = .next t ∧
      RegWritten 16 s t .esp (s.reg 16 .esp - BitVec.ofNat 16 (2 * h.os.bytes)) ∧
      (∀ x, within x a1 2 → kindAt s.memMap x.toNat = .ram → t.byteAt x = storedByte x a1 s.seg.cs.sel.toNat) ∧
      (∀ x, within x a2 h.os.bytes → kindAt s.memMap x.toNat = .ram →
        t.byteAt x = storedByte x a2 (s.eip + BitVec.ofNat 32 i.length).toNat) ∧
      (∀ x, ¬ within x a1 h.os.bytes → ¬ within x a2 h.os.bytes → t.byteAt x = s.byteAt x) ∧
      t.eip = (off.setWidth h.os.bits).setWidth 32 ∧ t.eflags = s.eflags ∧
      t.sys = { s.sys with
        seg := { s.seg with cs := { s.seg.cs with sel := sel, base := sel.setWidth 32 * 16 } }, prefetchStale := false }

/-- JNZ goes to its target when ZF is 0 and falls through when it is 1; it changes nothing else and is no JMP for the prefetch rule
(40 R135, R137). -/
def Obligations.JnzBranches : Prop :=
  ∀ (s : State) (h : Hdr) (rel : Byte), ∃ t, exec (.jnzRel8 h rel) s = .next t ∧ SameData s t ∧ t.eflags = s.eflags ∧
    t.sys = s.sys ∧ (s.eflags.zf = true → t.eip = s.nextEip (Instr.jnzRel8 h rel).length) ∧
    (s.eflags.zf = false →
      t.eip.toNat = (s.eip.toNat + (Instr.jnzRel8 h rel).length + (rel.signExtend 32).toNat) % 2 ^ h.os.bits)

/-- HLT where it is allowed moves EIP past itself and halts (40 R136). -/
def Obligations.HltHalts : Prop :=
  ∀ (s : State) (h : Hdr), Privileged s → ∃ t, exec (.hlt h) s = .next t ∧ SameData s t ∧ t.eflags = s.eflags ∧
    t.eip = s.nextEip (Instr.hlt h).length ∧ t.sys = { s.sys with run := .halted }

/-! ## Control and test registers -/

/-- MOV from CR0 and CR3 writes one register; the six arithmetic flags may be anything after it (41 R150, R152). -/
def Obligations.ReadControlRegister : Prop :=
  ∀ (s : State) (h : Hdr) (r : Reg) (i : Instr) (v : DWord), Privileged s →
    (i = .movRCr0 h r ∧ v = s.cr0) ∨ (i = .movRCr3 h r ∧ v = s.cr3) → ∃ t, exec i s = .next t ∧ RegWritten 32 s t r v ∧
      SameBytes s t ∧ DataAndFlags s t i.length

/-- MOV to CR0 writes CR0 whole; on entry to protected mode CPL becomes 0; a change of PE or PG makes the prefetch queue stale; nothing else
changes but EIP and the six arithmetic flags (41 R151, R154, R157). That the selector in CS keeps its low bits beside CPL is log 40. -/
def Obligations.WriteCr0 : Prop :=
  ∀ (s : State) (h : Hdr) (r : Reg), Privileged s → ((s.reg 32 r).getLsbD 31 = true → (s.reg 32 r).getLsbD 0 = true) →
    (s.pe = true → (s.reg 32 r).getLsbD 0 = true) → ∃ t, exec (.movCr0R h r) s = .next t ∧ SameData s t ∧
      SameControlFlags s.eflags t.eflags ∧ t.eip = s.nextEip (Instr.movCr0R h r).length ∧
      t.sys = { s.sys with
        cr0 := s.reg 32 r
        cpl := if s.pe = false ∧ (s.reg 32 r).getLsbD 0 = true then 0 else s.cpl
        prefetchStale := s.prefetchStale || s.cr0.getLsbD 0 != (s.reg 32 r).getLsbD 0 || s.cr0.getLsbD 31 != (s.reg 32 r).getLsbD 31 }

/-- MOV to CR3 writes CR3 and clears every valid bit of the TLB; the other bits of every entry stay (41 R153). Under the mark of duplicate
tags commands with V = 1 are defined again after it (44 R241), those with V = 0 once every entry has been rewritten since the first such
write; how the model counts that is log 24. That a write of CR3 which makes two tags equal sets no mark is the model's choice
(log 42). -/
def Obligations.WriteCr3 : Prop :=
  ∀ (s : State) (h : Hdr) (r : Reg), Privileged s → ∃ t, exec (.movCr3R h r) s = .next t ∧ SameData s t ∧
    SameControlFlags s.eflags t.eflags ∧ t.eip = s.nextEip (Instr.movCr3R h r).length ∧
    (∀ b i, (Tlb.entry t.tlb b i).v = false ∧ (Tlb.entry t.tlb b i).lin = (Tlb.entry s.tlb b i).lin ∧
      (Tlb.entry t.tlb b i).d = (Tlb.entry s.tlb b i).d ∧ (Tlb.entry t.tlb b i).u = (Tlb.entry s.tlb b i).u ∧
      (Tlb.entry t.tlb b i).w = (Tlb.entry s.tlb b i).w ∧ (Tlb.entry t.tlb b i).phys = (Tlb.entry s.tlb b i).phys ∧
      (Tlb.entry t.tlb b i).written = (Tlb.entry s.tlb b i).written) ∧
    (s.tlbMark = .clean → t.tlbMark = .clean) ∧
    (s.tlbMark ≠ .clean → t.tlbMark = .undefinedV0) ∧
    (s.tlbMark = .undefined → ∀ b i, (Tlb.entry t.tlb b i).rewritten = false) ∧
    (s.tlbMark = .undefinedV0 → ∀ b i, (Tlb.entry t.tlb b i).rewritten = (Tlb.entry s.tlb b i).rewritten) ∧
    t.sys = { s.sys with cr3 := s.reg 32 r, tlb := t.tlb, tlbMark := t.tlbMark }

/-- MOV from TR6 and TR7 gives the named fields where the layout of the part has them; the reserved bits may be anything (44 R230, R231;
10_state.md R28, R29; log 7, log 8). -/
def Obligations.ReadTestRegister : Prop :=
  ∀ (s : State) (h : Hdr) (r : Reg), Privileged s →
    (∃ t, exec (.movRTr6 h r) s = .next t ∧ RegWritten 32 s t r (t.reg 32 r) ∧ SameBytes s t ∧
      DataAndFlags s t (Instr.movRTr6 h r).length ∧
      (s.trLayout.wf = true → (t.reg 32 r).extractLsb' s.trLayout.lin 20 = s.tr6.lin ∧
        (t.reg 32 r).getLsbD s.trLayout.v = s.tr6.v ∧ (t.reg 32 r).getLsbD s.trLayout.d = s.tr6.d ∧
        (t.reg 32 r).getLsbD s.trLayout.dn = s.tr6.dn ∧ (t.reg 32 r).getLsbD s.trLayout.u = s.tr6.u ∧
        (t.reg 32 r).getLsbD s.trLayout.un = s.tr6.un ∧ (t.reg 32 r).getLsbD s.trLayout.w = s.tr6.w ∧
        (t.reg 32 r).getLsbD s.trLayout.wn = s.tr6.wn ∧ (t.reg 32 r).getLsbD s.trLayout.c = s.tr6.c)) ∧
    (∃ t, exec (.movRTr7 h r) s = .next t ∧ RegWritten 32 s t r (t.reg 32 r) ∧ SameBytes s t ∧
      DataAndFlags s t (Instr.movRTr7 h r).length ∧
      (s.trLayout.wf = true → (t.reg 32 r).extractLsb' s.trLayout.phys 20 = s.tr7.phys ∧
        (t.reg 32 r).getLsbD s.trLayout.ht = s.tr7.ht ∧ (t.reg 32 r).extractLsb' s.trLayout.rep 2 = s.tr7.rep))

/-- MOV to TR7 stages the physical address, HT and REP and leaves the TLB as it was (44 R232; 10_state.md R29; where the fields lie, log 7). -/
def Obligations.WriteTr7 : Prop :=
  ∀ (s : State) (h : Hdr) (r : Reg), Privileged s → ∃ t, exec (.movTr7R h r) s = .next t ∧ SameData s t ∧
    SameControlFlags s.eflags t.eflags ∧ t.eip = s.nextEip (Instr.movTr7R h r).length ∧
    t.sys = { s.sys with
      tr7 :=
        { phys := (s.reg 32 r).extractLsb' s.trLayout.phys 20, ht := (s.reg 32 r).getLsbD s.trLayout.ht
          rep := (s.reg 32 r).extractLsb' s.trLayout.rep 2 } }

/-- MOV to TR6 with C = 0 writes the entry at block REP and index TLB_INDEX of the linear address from TR6 and TR7, no other entry; a tag that
another block now holds as well sets the mark of duplicate tags (44 R233, R234, R241, R244). Where the fields lie and which index a page has
are the part's (log 7). That a write with V = 1 runs again after CR3 has been written under the mark, and that the mark goes when all entries
have been rewritten, is log 24 (R241, R247). That tags which a write of CR3 has made equal set no mark and do not keep it is the model's choice
(log 42). -/
def Obligations.TlbWriteCommand : Prop :=
  ∀ (s : State) (h : Hdr) (r : Reg) (x : DWord) (l : TrLayout) (j : BitVec 3), x = s.reg 32 r → l = s.trLayout →
    j = tlbIndex s.tlbIndexTable (x.extractLsb' l.lin 20) → CommandReady s x → x.getLsbD l.c = false → PairsFormed l x →
    s.tr7.ht = true → ∃ t, exec (.movTr6R h r) s = .next t ∧ SameData s t ∧ SameControlFlags s.eflags t.eflags ∧
      t.eip = s.nextEip (Instr.movTr6R h r).length ∧
      (s.tlbIndexTable = [] → j = x.extractLsb' l.lin 3) ∧
      TagIs l (Tlb.entry t.tlb s.tr7.rep j) x ∧ (Tlb.entry t.tlb s.tr7.rep j).phys = s.tr7.phys ∧
      (Tlb.entry t.tlb s.tr7.rep j).written = true ∧
      (∀ b i, ¬ (b = s.tr7.rep ∧ i = j) → Tlb.entry t.tlb b i = Tlb.entry s.tlb b i) ∧
      ((∃ b, b ≠ s.tr7.rep ∧ TagIs l (Tlb.entry s.tlb b j) x) → t.tlbMark = .undefined) ∧
      ((∀ b, b ≠ s.tr7.rep → ¬ TagIs l (Tlb.entry s.tlb b j) x) →
        (s.tlbMark = .clean → t.tlbMark = .clean) ∧
        (s.tlbMark = .undefinedV0 → (Tlb.entry t.tlb s.tr7.rep j).rewritten = true ∧
          ((∀ b i, (Tlb.entry t.tlb b i).rewritten = true) → t.tlbMark = .clean) ∧
          ((∃ b i, (Tlb.entry t.tlb b i).rewritten = false) → t.tlbMark = .undefinedV0))) ∧
      t.sys = { s.sys with
        tr6 :=
          { lin := x.extractLsb' l.lin 20, v := x.getLsbD l.v, d := x.getLsbD l.d, dn := x.getLsbD l.dn, u := x.getLsbD l.u
            un := x.getLsbD l.un, w := x.getLsbD l.w, wn := x.getLsbD l.wn, c := x.getLsbD l.c }
        tlb := t.tlb, tlbMark := t.tlbMark }

/-- MOV to TR6 with C = 1 looks the tag up: one match gives its data and block in TR7 with HT = 1, no match gives HT = 0 and leaves the rest
of TR7 open; the TLB is not changed (44 R233, R235, R240). Where the fields lie is the part's (log 7). That a lookup with V = 1 runs again
after CR3 has been written under the mark of duplicate tags is R241 with log 24. -/
def Obligations.TlbLookupCommand : Prop :=
  ∀ (s : State) (h : Hdr) (r : Reg) (x : DWord) (l : TrLayout), x = s.reg 32 r → l = s.trLayout → CommandReady s x →
    x.getLsbD l.c = true → PairsFormed l x → (x.getLsbD l.v = true ∨ ∀ b i, (Tlb.entry s.tlb b i).written = true) →
    (∀ b i, TagIs l (Tlb.entry s.tlb b i) x → (∀ c j, TagIs l (Tlb.entry s.tlb c j) x → c = b ∧ j = i) →
      ∃ t, exec (.movTr6R h r) s = .next t ∧ SameData s t ∧ SameControlFlags s.eflags t.eflags ∧
        t.eip = s.nextEip (Instr.movTr6R h r).length ∧
        t.sys = { s.sys with
          tr6 := TR6.ofWord l x
          tr7 := { phys := (Tlb.entry s.tlb b i).phys, ht := true, rep := b } }) ∧
    ((∀ b i, ¬ TagIs l (Tlb.entry s.tlb b i) x) →
      ∃ t, exec (.movTr6R h r) s = .next t ∧ SameData s t ∧ SameControlFlags s.eflags t.eflags ∧
        t.eip = s.nextEip (Instr.movTr6R h r).length ∧ t.tr7.ht = false ∧
        t.sys = { s.sys with tr6 := TR6.ofWord l x, tr7 := t.tr7 })

/-- An entry written with V = 1 and a tag that no other entry holds is found by the next lookup of the same fields, whatever bits of the
command words are C, V and the rest of a layout whose fields lie apart (44 R245 to R247; log 7). -/
def Obligations.TlbWriteThenLookup : Prop :=
  ∀ (s t : State) (h g : Hdr) (r q : Reg) (x y : DWord) (l : TrLayout), x = s.reg 32 r → y = s.reg 32 q → l = s.trLayout →
    l.wf = true → s.tlbMark = .clean → x.getLsbD l.c = false → y.getLsbD l.c = true →
    (∀ k, k ≠ l.c.val → y.getLsbD k = x.getLsbD k) → x.getLsbD l.v = true → PairsFormed l x → Privileged s →
    (∀ b i, ¬ TagIs l (Tlb.entry s.tlb b i) x) → exec (.movTr6R h r) s = .next t →
    ∃ u, exec (.movTr6R g q) t = .next u ∧ u.tr7 = { phys := s.tr7.phys, ht := true, rep := s.tr7.rep } ∧ u.tlb = t.tlb

/-! ## Tables and segments -/

/-- LGDT and LIDT load the limit from the first two bytes of the operand and the base from the next three under operand size 16, four under
32; nothing else changes but EIP and, for LGDT, that GDTR now counts as loaded (42 R170, R171, R177). -/
def Obligations.LoadTables : Prop :=
  ∀ (s : State) (h : Hdr) (m : Mem) (v : TableReg), Privileged s → AddrReady s (operandAddr s h m) 6 →
    v = { base := BitVec.ofNat 32 (s.valueAt (addrOf (operandAddr s h m) + 2) (if h.os = .s16 then 3 else 4))
          limit := BitVec.ofNat 16 (s.valueAt (addrOf (operandAddr s h m)) 2) } →
    (∃ t, exec (.lgdt h m) s = .next t ∧ SameData s t ∧ t.eflags = s.eflags ∧ t.eip = s.nextEip (Instr.lgdt h m).length ∧
      t.sys = { s.sys with gdtr := v, gdtrLoaded := true }) ∧
    (∃ t, exec (.lidt h m) s = .next t ∧ SameData s t ∧ t.eflags = s.eflags ∧ t.eip = s.nextEip (Instr.lidt h m).length ∧
      t.sys = { s.sys with idtr := v })

/-- LTR on an available TSS loads the task register from the descriptor and stores the access byte with the busy bit set (42 R172;
20_memory.md R78, R81). -/
def Obligations.LtrLoads : Prop :=
  ∀ (s : State) (h : Hdr) (rm : RM Reg) (sel : Word16) (a : DWord), s.pe = true → s.cpl = 0 → s.mem.wf = true →
    RmReady s h rm 2 → sel = rmValue 16 s h rm → a = s.gdtAddr sel → (selOffset sel).toNat + 7 ≤ s.gdtr.limit.toNat →
    Present s a 8 → (s.byteAt (a + 5)).getLsbD 7 = true →
    (s.byteAt (a + 5)).extractLsb' 0 5 = 9#5 ∨ (s.byteAt (a + 5)).extractLsb' 0 5 = 1#5 →
    ∃ t, exec (.ltr h rm) s = .next t ∧ t.gpr = s.gpr ∧ Stored s t (a + 5) 1 (s.byteAt (a + 5) ||| 0x02).toNat ∧
      t.eflags = s.eflags ∧ t.eip = s.nextEip (Instr.ltr h rm).length ∧
      t.sys = { s.sys with tr := { sel := sel, base := descBase s a, limit := descLimit s a } }

/-- LAR in protected mode: on a selector of a descriptor it accepts, the rights bytes go to the destination and ZF is set; otherwise ZF is
cleared and the destination stays; no other flag changes. Which types it accepts is presumed (42 R173; log 18). -/
def Obligations.LarReports : Prop :=
  ∀ (s : State) (h : Hdr) (r : Reg) (rm : RM Reg) (sel : Word16) (hi : DWord), s.pe = true → RmReady s h rm h.os.bytes →
    sel = (rmValue h.os.bits s h rm).setWidth 16 → hi = BitVec.ofNat 32 (s.valueAt ((selTable s sel).1 + selOffset sel + 4) 4) →
    (selNull sel = true ∨ (selTable s sel).2 < (selOffset sel).toNat + 7 →
      ∃ t, exec (.lar h r rm) s = .next t ∧ SameData s t ∧ t.sys = s.sys ∧ t.eflags = { s.eflags with zf := false } ∧
        t.eip = s.nextEip (Instr.lar h r rm).length) ∧
    (selNull sel = false → (selOffset sel).toNat + 7 ≤ (selTable s sel).2 →
      Present s ((selTable s sel).1 + selOffset sel + 4) 4 →
      (larAccepts s sel hi = false → ∃ t, exec (.lar h r rm) s = .next t ∧ SameData s t ∧ t.sys = s.sys ∧
        t.eflags = { s.eflags with zf := false } ∧ t.eip = s.nextEip (Instr.lar h r rm).length) ∧
      (larAccepts s sel hi = true → ∃ t, exec (.lar h r rm) s = .next t ∧
        RegWritten h.os.bits s t r ((hi &&& (if h.os = .s16 then 0x0000FF00 else 0x00F0FF00)).setWidth h.os.bits) ∧
        SameBytes s t ∧ t.sys = s.sys ∧ t.eflags = { s.eflags with zf := true } ∧
        t.eip = s.nextEip (Instr.lar h r rm).length))

/-- MOV to a segment register other than CS in real-address mode: the selector and 16 times it as the base; the rest of the register and
all other registers stay; a load of SS counts as such and holds off interrupts, NMI included (42 R174; 70 R293), which 70 R305 leaves
to the model (log 12). -/
def Obligations.SegmentLoadReal : Prop :=
  ∀ (s : State) (h : Hdr) (sr : SReg) (rm : RM Reg), s.pe = false → sr ≠ .cs → RmReady s h rm 2 →
    ∃ t, exec (.movSregRm h sr rm) s = .next t ∧ SameData s t ∧ t.eflags = s.eflags ∧
      t.eip = s.nextEip (Instr.movSregRm h sr rm).length ∧
      t.seg.get sr = { s.seg.get sr with sel := rmValue 16 s h rm, base := (rmValue 16 s h rm).setWidth 32 * 16 } ∧
      (∀ q, q ≠ sr → t.seg.get q = s.seg.get q) ∧
      t.sys = { s.sys with
        seg := t.seg, ssLoaded := s.ssLoaded || decide (sr = .ss), holdOff := s.holdOff || decide (sr = .ss) }

/-- MOV to a segment register other than CS in protected mode with GDTR loaded: a null selector marks DS, ES, FS or GS unusable and touches
no memory; a selector of a suitable GDT descriptor loads base, limit and rights from it and sets its accessed bit in memory. The privilege
part of suitable is presumed (42 R175; 20_memory.md R78, R81; log 17). A load of SS counts as such (70 R293) and holds off interrupts,
NMI included (42 R174), which 70 R305 leaves to the model (log 12). -/
def Obligations.SegmentLoadProtected : Prop :=
  ∀ (s : State) (h : Hdr) (sr : SReg) (rm : RM Reg) (sel : Word16) (a : DWord), s.pe = true → sr ≠ .cs → s.gdtrLoaded = true →
    s.mem.wf = true → RmReady s h rm 2 → sel = rmValue 16 s h rm → a = s.gdtAddr sel →
    (selNull sel = true → sr ≠ .ss → ∃ t, exec (.movSregRm h sr rm) s = .next t ∧ SameData s t ∧ t.eflags = s.eflags ∧
      t.eip = s.nextEip (Instr.movSregRm h sr rm).length ∧
      t.seg.get sr = { s.seg.get sr with sel := sel, usable := false } ∧ (∀ q, q ≠ sr → t.seg.get q = s.seg.get q) ∧
      t.sys = { s.sys with seg := t.seg }) ∧
    (GdtEntry s sel → segmentOk sr (s.byteAt (a + 5)) s.cpl (sel.extractLsb' 0 2) = true →
      ∃ t, exec (.movSregRm h sr rm) s = .next t ∧ t.gpr = s.gpr ∧ t.eflags = s.eflags ∧
        t.eip = s.nextEip (Instr.movSregRm h sr rm).length ∧
        t.seg.get sr = { sel := sel, base := descBase s a, limit := descLimit s a, access := s.byteAt (a + 5)
                         gran := (s.byteAt (a + 6)).extractLsb' 4 4, usable := true } ∧
        (∀ q, q ≠ sr → t.seg.get q = s.seg.get q) ∧
        ((s.byteAt (a + 5)).getLsbD 0 = true → SameBytes s t) ∧
        ((s.byteAt (a + 5)).getLsbD 0 = false → Stored s t (a + 5) 1 (s.byteAt (a + 5) ||| 0x01).toNat) ∧
        t.sys = { s.sys with
          seg := t.seg, ssLoaded := s.ssLoaded || decide (sr = .ss), holdOff := s.holdOff || decide (sr = .ss) })

/-! ## The whole machine -/

/-- Each system register is written by the instructions that the spec names for it and by no other; no instruction writes LDTR or CR2
(10_state.md R24 to R29; 42 R176; 60_exceptions.md R271). -/
def Obligations.SystemRegistersWrittenByTheirLoads : Prop :=
  ∀ (i : Instr) (s t : State), exec i s = .next t →
    t.ldtr = s.ldtr ∧ t.cr2 = s.cr2 ∧ t.memMap = s.memMap ∧ t.trLayout = s.trLayout ∧ t.tlbIndexTable = s.tlbIndexTable ∧
    t.inputs = s.inputs ∧ (t.repeating ≠ s.repeating → ∃ h wide, i = .repMovs h wide) ∧
    (t.gdtr ≠ s.gdtr → ∃ h m, i = .lgdt h m) ∧ (t.idtr ≠ s.idtr → ∃ h m, i = .lidt h m) ∧ (t.tr ≠ s.tr → ∃ h rm, i = .ltr h rm) ∧
    (t.cr0 ≠ s.cr0 ∨ t.cpl ≠ s.cpl → ∃ h r, i = .movCr0R h r) ∧ (t.cr3 ≠ s.cr3 → ∃ h r, i = .movCr3R h r) ∧
    (t.tr6 ≠ s.tr6 → ∃ h r, i = .movTr6R h r) ∧ (t.tr7 ≠ s.tr7 → ∃ h r, i = .movTr6R h r ∨ i = .movTr7R h r) ∧
    (t.tlb ≠ s.tlb → ∃ h r, i = .movTr6R h r ∨ i = .movCr3R h r) ∧ (t.ports ≠ s.ports → ∃ h port, i = .outImm8Al h port) ∧
    (t.seg.cs ≠ s.seg.cs → (∃ h o q, i = .jmpFar h o q ∨ i = .callFar h o q) ∨ ∃ h m, i = .jmpFarMem h m ∨ i = .callFarMem h m) ∧
    ((t.seg.ds ≠ s.seg.ds ∨ t.seg.es ≠ s.seg.es ∨ t.seg.ss ≠ s.seg.ss ∨ t.seg.fs ≠ s.seg.fs ∨ t.seg.gs ≠ s.seg.gs) →
      ∃ h sr rm, i = .movSregRm h sr rm)

/-- No instruction writes TF, IOPL, NT, RF or VM; only CLI writes IF, only CLD writes DF, and they clear it (10_state.md R23). -/
def Obligations.SystemFlagsKept : Prop :=
  ∀ (i : Instr) (s t : State), exec i s = .next t →
    t.eflags.tf = s.eflags.tf ∧ t.eflags.iopl = s.eflags.iopl ∧ t.eflags.nt = s.eflags.nt ∧ t.eflags.rf = s.eflags.rf ∧
    t.eflags.vm = s.eflags.vm ∧ (t.eflags.ifl ≠ s.eflags.ifl → t.eflags.ifl = false ∧ ∃ h, i = .cli h) ∧
    (t.eflags.df ≠ s.eflags.df → t.eflags.df = false ∧ ∃ h, i = .cld h)

/-- Protected mode, once entered, is left by RESET only (60_exceptions.md R271; 41 R156). -/
def Obligations.ProtectedModeStays : Prop :=
  ∀ s t : State, s.inputs.reset = none → s.pe = true → step s = .next t → t.pe = true

/-! ## Invariants -/

/-- Every step keeps the canonical form of memory (log 1). -/
def Obligations.MemoryStaysCanonical : Prop :=
  ∀ s t : State, s.mem.wf = true → step s = .next t → t.mem.wf = true

/-- Every step keeps: PG is set in protected mode only, and the privilege level is 0 (41 R155; 60_exceptions.md R271). -/
def Obligations.ModeInvariant : Prop :=
  ∀ s t : State, PagingNeedsPe s ∧ CplZero s → step s = .next t → PagingNeedsPe t ∧ CplZero t

/-- Every step keeps: a TLB entry that has never been written has V = 0 (10_state.md R30). -/
def Obligations.UnwrittenStaysInvalid : Prop :=
  ∀ s t : State, UnwrittenInvalid s → step s = .next t → UnwrittenInvalid t

/-- Every step keeps: the base of CS is that of the reset or 16 times its selector, and code is 16-bit (10_state.md R33; 30_encoding.md
R102). -/
def Obligations.CodeSegmentKept : Prop :=
  ∀ s t : State, CodeSegmentShape s → step s = .next t → CodeSegmentShape t

/-- All of these invariants hold in State.reset, the model's own start: what 70_reset_and_hazards.md R291 lists, with the model's choices of
empty memory (log 1), of the values the source leaves undefined (log 3, log 4) and of the access rights, granularity and usable mark of the
segment registers (log 5); and its layout of TR6 and TR7 has its fields apart (log 7). -/
def Obligations.InvariantsAtReset : Prop :=
  State.reset.mem.wf = true ∧ PagingNeedsPe State.reset ∧ CplZero State.reset ∧ UnwrittenInvalid State.reset ∧
    CodeSegmentShape State.reset ∧ State.reset.trLayout.wf = true

end
end

