-- ==== Sys2Proof/Laws/State.lean ====
section
/-! SUPPORT. What each named update of State does to each field: one rewriting lemma for each. -/

namespace Sys2Proof.Machine

open Sys2Proof

/-! ## setReg -/

@[simp] theorem setReg_gpr (w : Nat) (s : State) (r : Reg) (v : BitVec w) : (s.setReg w r v).gpr = s.gpr.set r (mergeLow w (s.gpr.get r) v) := rfl
@[simp] theorem setReg_eip (w : Nat) (s : State) (r : Reg) (v : BitVec w) : (s.setReg w r v).eip = s.eip := rfl
@[simp] theorem setReg_eflags (w : Nat) (s : State) (r : Reg) (v : BitVec w) : (s.setReg w r v).eflags = s.eflags := rfl
@[simp] theorem setReg_seg (w : Nat) (s : State) (r : Reg) (v : BitVec w) : (s.setReg w r v).seg = s.seg := rfl
@[simp] theorem setReg_gdtr (w : Nat) (s : State) (r : Reg) (v : BitVec w) : (s.setReg w r v).gdtr = s.gdtr := rfl
@[simp] theorem setReg_idtr (w : Nat) (s : State) (r : Reg) (v : BitVec w) : (s.setReg w r v).idtr = s.idtr := rfl
@[simp] theorem setReg_ldtr (w : Nat) (s : State) (r : Reg) (v : BitVec w) : (s.setReg w r v).ldtr = s.ldtr := rfl
@[simp] theorem setReg_tr (w : Nat) (s : State) (r : Reg) (v : BitVec w) : (s.setReg w r v).tr = s.tr := rfl
@[simp] theorem setReg_cr0 (w : Nat) (s : State) (r : Reg) (v : BitVec w) : (s.setReg w r v).cr0 = s.cr0 := rfl
@[simp] theorem setReg_cr2 (w : Nat) (s : State) (r : Reg) (v : BitVec w) : (s.setReg w r v).cr2 = s.cr2 := rfl
@[simp] theorem setReg_cr3 (w : Nat) (s : State) (r : Reg) (v : BitVec w) : (s.setReg w r v).cr3 = s.cr3 := rfl
@[simp] theorem setReg_tr6 (w : Nat) (s : State) (r : Reg) (v : BitVec w) : (s.setReg w r v).tr6 = s.tr6 := rfl
@[simp] theorem setReg_tr7 (w : Nat) (s : State) (r : Reg) (v : BitVec w) : (s.setReg w r v).tr7 = s.tr7 := rfl
@[simp] theorem setReg_tlb (w : Nat) (s : State) (r : Reg) (v : BitVec w) : (s.setReg w r v).tlb = s.tlb := rfl
@[simp] theorem setReg_tlbMark (w : Nat) (s : State) (r : Reg) (v : BitVec w) : (s.setReg w r v).tlbMark = s.tlbMark := rfl
@[simp] theorem setReg_prefetchStale (w : Nat) (s : State) (r : Reg) (v : BitVec w) : (s.setReg w r v).prefetchStale = s.prefetchStale := rfl
@[simp] theorem setReg_cpl (w : Nat) (s : State) (r : Reg) (v : BitVec w) : (s.setReg w r v).cpl = s.cpl := rfl
@[simp] theorem setReg_run (w : Nat) (s : State) (r : Reg) (v : BitVec w) : (s.setReg w r v).run = s.run := rfl
@[simp] theorem setReg_ssLoaded (w : Nat) (s : State) (r : Reg) (v : BitVec w) : (s.setReg w r v).ssLoaded = s.ssLoaded := rfl
@[simp] theorem setReg_gdtrLoaded (w : Nat) (s : State) (r : Reg) (v : BitVec w) : (s.setReg w r v).gdtrLoaded = s.gdtrLoaded := rfl
@[simp] theorem setReg_holdOff (w : Nat) (s : State) (r : Reg) (v : BitVec w) : (s.setReg w r v).holdOff = s.holdOff := rfl
@[simp] theorem setReg_repeating (w : Nat) (s : State) (r : Reg) (v : BitVec w) : (s.setReg w r v).repeating = s.repeating := rfl
@[simp] theorem setReg_mem (w : Nat) (s : State) (r : Reg) (v : BitVec w) : (s.setReg w r v).mem = s.mem := rfl
@[simp] theorem setReg_memMap (w : Nat) (s : State) (r : Reg) (v : BitVec w) : (s.setReg w r v).memMap = s.memMap := rfl
@[simp] theorem setReg_trLayout (w : Nat) (s : State) (r : Reg) (v : BitVec w) : (s.setReg w r v).trLayout = s.trLayout := rfl
@[simp] theorem setReg_tlbIndexTable (w : Nat) (s : State) (r : Reg) (v : BitVec w) : (s.setReg w r v).tlbIndexTable = s.tlbIndexTable := rfl
@[simp] theorem setReg_ports (w : Nat) (s : State) (r : Reg) (v : BitVec w) : (s.setReg w r v).ports = s.ports := rfl
@[simp] theorem setReg_inputs (w : Nat) (s : State) (r : Reg) (v : BitVec w) : (s.setReg w r v).inputs = s.inputs := rfl
@[simp] theorem setReg_freeCount (w : Nat) (s : State) (r : Reg) (v : BitVec w) : (s.setReg w r v).freeCount = s.freeCount := rfl

@[simp] theorem setReg_sys (w : Nat) (s : State) (r : Reg) (v : BitVec w) : (s.setReg w r v).sys = s.sys := rfl

@[simp] theorem setReg_byteAt (w : Nat) (s : State) (r : Reg) (v : BitVec w) (a : DWord) : (s.setReg w r v).byteAt a = s.byteAt a := rfl

/-! ## setReg8 -/

@[simp] theorem setReg8_gpr (s : State) (r : Reg8) (v : Byte) : (s.setReg8 r v).gpr = s.gpr.set r.parent (mergeBits r.shift (s.gpr.get r.parent) v) := rfl
@[simp] theorem setReg8_eip (s : State) (r : Reg8) (v : Byte) : (s.setReg8 r v).eip = s.eip := rfl
@[simp] theorem setReg8_eflags (s : State) (r : Reg8) (v : Byte) : (s.setReg8 r v).eflags = s.eflags := rfl
@[simp] theorem setReg8_seg (s : State) (r : Reg8) (v : Byte) : (s.setReg8 r v).seg = s.seg := rfl
@[simp] theorem setReg8_gdtr (s : State) (r : Reg8) (v : Byte) : (s.setReg8 r v).gdtr = s.gdtr := rfl
@[simp] theorem setReg8_idtr (s : State) (r : Reg8) (v : Byte) : (s.setReg8 r v).idtr = s.idtr := rfl
@[simp] theorem setReg8_ldtr (s : State) (r : Reg8) (v : Byte) : (s.setReg8 r v).ldtr = s.ldtr := rfl
@[simp] theorem setReg8_tr (s : State) (r : Reg8) (v : Byte) : (s.setReg8 r v).tr = s.tr := rfl
@[simp] theorem setReg8_cr0 (s : State) (r : Reg8) (v : Byte) : (s.setReg8 r v).cr0 = s.cr0 := rfl
@[simp] theorem setReg8_cr2 (s : State) (r : Reg8) (v : Byte) : (s.setReg8 r v).cr2 = s.cr2 := rfl
@[simp] theorem setReg8_cr3 (s : State) (r : Reg8) (v : Byte) : (s.setReg8 r v).cr3 = s.cr3 := rfl
@[simp] theorem setReg8_tr6 (s : State) (r : Reg8) (v : Byte) : (s.setReg8 r v).tr6 = s.tr6 := rfl
@[simp] theorem setReg8_tr7 (s : State) (r : Reg8) (v : Byte) : (s.setReg8 r v).tr7 = s.tr7 := rfl
@[simp] theorem setReg8_tlb (s : State) (r : Reg8) (v : Byte) : (s.setReg8 r v).tlb = s.tlb := rfl
@[simp] theorem setReg8_tlbMark (s : State) (r : Reg8) (v : Byte) : (s.setReg8 r v).tlbMark = s.tlbMark := rfl
@[simp] theorem setReg8_prefetchStale (s : State) (r : Reg8) (v : Byte) : (s.setReg8 r v).prefetchStale = s.prefetchStale := rfl
@[simp] theorem setReg8_cpl (s : State) (r : Reg8) (v : Byte) : (s.setReg8 r v).cpl = s.cpl := rfl
@[simp] theorem setReg8_run (s : State) (r : Reg8) (v : Byte) : (s.setReg8 r v).run = s.run := rfl
@[simp] theorem setReg8_ssLoaded (s : State) (r : Reg8) (v : Byte) : (s.setReg8 r v).ssLoaded = s.ssLoaded := rfl
@[simp] theorem setReg8_gdtrLoaded (s : State) (r : Reg8) (v : Byte) : (s.setReg8 r v).gdtrLoaded = s.gdtrLoaded := rfl
@[simp] theorem setReg8_holdOff (s : State) (r : Reg8) (v : Byte) : (s.setReg8 r v).holdOff = s.holdOff := rfl
@[simp] theorem setReg8_repeating (s : State) (r : Reg8) (v : Byte) : (s.setReg8 r v).repeating = s.repeating := rfl
@[simp] theorem setReg8_mem (s : State) (r : Reg8) (v : Byte) : (s.setReg8 r v).mem = s.mem := rfl
@[simp] theorem setReg8_memMap (s : State) (r : Reg8) (v : Byte) : (s.setReg8 r v).memMap = s.memMap := rfl
@[simp] theorem setReg8_trLayout (s : State) (r : Reg8) (v : Byte) : (s.setReg8 r v).trLayout = s.trLayout := rfl
@[simp] theorem setReg8_tlbIndexTable (s : State) (r : Reg8) (v : Byte) : (s.setReg8 r v).tlbIndexTable = s.tlbIndexTable := rfl
@[simp] theorem setReg8_ports (s : State) (r : Reg8) (v : Byte) : (s.setReg8 r v).ports = s.ports := rfl
@[simp] theorem setReg8_inputs (s : State) (r : Reg8) (v : Byte) : (s.setReg8 r v).inputs = s.inputs := rfl
@[simp] theorem setReg8_freeCount (s : State) (r : Reg8) (v : Byte) : (s.setReg8 r v).freeCount = s.freeCount := rfl

@[simp] theorem setReg8_sys (s : State) (r : Reg8) (v : Byte) : (s.setReg8 r v).sys = s.sys := rfl

@[simp] theorem setReg8_byteAt (s : State) (r : Reg8) (v : Byte) (a : DWord) : (s.setReg8 r v).byteAt a = s.byteAt a := rfl

/-! ## setSeg -/

@[simp] theorem setSeg_gpr (s : State) (r : SReg) (v : SegReg) : (s.setSeg r v).gpr = s.gpr := rfl
@[simp] theorem setSeg_eip (s : State) (r : SReg) (v : SegReg) : (s.setSeg r v).eip = s.eip := rfl
@[simp] theorem setSeg_eflags (s : State) (r : SReg) (v : SegReg) : (s.setSeg r v).eflags = s.eflags := rfl
@[simp] theorem setSeg_seg (s : State) (r : SReg) (v : SegReg) : (s.setSeg r v).seg = s.seg.set r v := rfl
@[simp] theorem setSeg_gdtr (s : State) (r : SReg) (v : SegReg) : (s.setSeg r v).gdtr = s.gdtr := rfl
@[simp] theorem setSeg_idtr (s : State) (r : SReg) (v : SegReg) : (s.setSeg r v).idtr = s.idtr := rfl
@[simp] theorem setSeg_ldtr (s : State) (r : SReg) (v : SegReg) : (s.setSeg r v).ldtr = s.ldtr := rfl
@[simp] theorem setSeg_tr (s : State) (r : SReg) (v : SegReg) : (s.setSeg r v).tr = s.tr := rfl
@[simp] theorem setSeg_cr0 (s : State) (r : SReg) (v : SegReg) : (s.setSeg r v).cr0 = s.cr0 := rfl
@[simp] theorem setSeg_cr2 (s : State) (r : SReg) (v : SegReg) : (s.setSeg r v).cr2 = s.cr2 := rfl
@[simp] theorem setSeg_cr3 (s : State) (r : SReg) (v : SegReg) : (s.setSeg r v).cr3 = s.cr3 := rfl
@[simp] theorem setSeg_tr6 (s : State) (r : SReg) (v : SegReg) : (s.setSeg r v).tr6 = s.tr6 := rfl
@[simp] theorem setSeg_tr7 (s : State) (r : SReg) (v : SegReg) : (s.setSeg r v).tr7 = s.tr7 := rfl
@[simp] theorem setSeg_tlb (s : State) (r : SReg) (v : SegReg) : (s.setSeg r v).tlb = s.tlb := rfl
@[simp] theorem setSeg_tlbMark (s : State) (r : SReg) (v : SegReg) : (s.setSeg r v).tlbMark = s.tlbMark := rfl
@[simp] theorem setSeg_prefetchStale (s : State) (r : SReg) (v : SegReg) : (s.setSeg r v).prefetchStale = s.prefetchStale := rfl
@[simp] theorem setSeg_cpl (s : State) (r : SReg) (v : SegReg) : (s.setSeg r v).cpl = s.cpl := rfl
@[simp] theorem setSeg_run (s : State) (r : SReg) (v : SegReg) : (s.setSeg r v).run = s.run := rfl
@[simp] theorem setSeg_ssLoaded (s : State) (r : SReg) (v : SegReg) : (s.setSeg r v).ssLoaded = s.ssLoaded := rfl
@[simp] theorem setSeg_gdtrLoaded (s : State) (r : SReg) (v : SegReg) : (s.setSeg r v).gdtrLoaded = s.gdtrLoaded := rfl
@[simp] theorem setSeg_holdOff (s : State) (r : SReg) (v : SegReg) : (s.setSeg r v).holdOff = s.holdOff := rfl
@[simp] theorem setSeg_repeating (s : State) (r : SReg) (v : SegReg) : (s.setSeg r v).repeating = s.repeating := rfl
@[simp] theorem setSeg_mem (s : State) (r : SReg) (v : SegReg) : (s.setSeg r v).mem = s.mem := rfl
@[simp] theorem setSeg_memMap (s : State) (r : SReg) (v : SegReg) : (s.setSeg r v).memMap = s.memMap := rfl
@[simp] theorem setSeg_trLayout (s : State) (r : SReg) (v : SegReg) : (s.setSeg r v).trLayout = s.trLayout := rfl
@[simp] theorem setSeg_tlbIndexTable (s : State) (r : SReg) (v : SegReg) : (s.setSeg r v).tlbIndexTable = s.tlbIndexTable := rfl
@[simp] theorem setSeg_ports (s : State) (r : SReg) (v : SegReg) : (s.setSeg r v).ports = s.ports := rfl
@[simp] theorem setSeg_inputs (s : State) (r : SReg) (v : SegReg) : (s.setSeg r v).inputs = s.inputs := rfl
@[simp] theorem setSeg_freeCount (s : State) (r : SReg) (v : SegReg) : (s.setSeg r v).freeCount = s.freeCount := rfl

@[simp] theorem setSeg_byteAt (s : State) (r : SReg) (v : SegReg) (a : DWord) : (s.setSeg r v).byteAt a = s.byteAt a := rfl

/-! ## setEip -/

@[simp] theorem setEip_gpr (s : State) (v : DWord) : (s.setEip v).gpr = s.gpr := rfl
@[simp] theorem setEip_eip (s : State) (v : DWord) : (s.setEip v).eip = v := rfl
@[simp] theorem setEip_eflags (s : State) (v : DWord) : (s.setEip v).eflags = s.eflags := rfl
@[simp] theorem setEip_seg (s : State) (v : DWord) : (s.setEip v).seg = s.seg := rfl
@[simp] theorem setEip_gdtr (s : State) (v : DWord) : (s.setEip v).gdtr = s.gdtr := rfl
@[simp] theorem setEip_idtr (s : State) (v : DWord) : (s.setEip v).idtr = s.idtr := rfl
@[simp] theorem setEip_ldtr (s : State) (v : DWord) : (s.setEip v).ldtr = s.ldtr := rfl
@[simp] theorem setEip_tr (s : State) (v : DWord) : (s.setEip v).tr = s.tr := rfl
@[simp] theorem setEip_cr0 (s : State) (v : DWord) : (s.setEip v).cr0 = s.cr0 := rfl
@[simp] theorem setEip_cr2 (s : State) (v : DWord) : (s.setEip v).cr2 = s.cr2 := rfl
@[simp] theorem setEip_cr3 (s : State) (v : DWord) : (s.setEip v).cr3 = s.cr3 := rfl
@[simp] theorem setEip_tr6 (s : State) (v : DWord) : (s.setEip v).tr6 = s.tr6 := rfl
@[simp] theorem setEip_tr7 (s : State) (v : DWord) : (s.setEip v).tr7 = s.tr7 := rfl
@[simp] theorem setEip_tlb (s : State) (v : DWord) : (s.setEip v).tlb = s.tlb := rfl
@[simp] theorem setEip_tlbMark (s : State) (v : DWord) : (s.setEip v).tlbMark = s.tlbMark := rfl
@[simp] theorem setEip_prefetchStale (s : State) (v : DWord) : (s.setEip v).prefetchStale = s.prefetchStale := rfl
@[simp] theorem setEip_cpl (s : State) (v : DWord) : (s.setEip v).cpl = s.cpl := rfl
@[simp] theorem setEip_run (s : State) (v : DWord) : (s.setEip v).run = s.run := rfl
@[simp] theorem setEip_ssLoaded (s : State) (v : DWord) : (s.setEip v).ssLoaded = s.ssLoaded := rfl
@[simp] theorem setEip_gdtrLoaded (s : State) (v : DWord) : (s.setEip v).gdtrLoaded = s.gdtrLoaded := rfl
@[simp] theorem setEip_holdOff (s : State) (v : DWord) : (s.setEip v).holdOff = s.holdOff := rfl
@[simp] theorem setEip_repeating (s : State) (v : DWord) : (s.setEip v).repeating = s.repeating := rfl
@[simp] theorem setEip_mem (s : State) (v : DWord) : (s.setEip v).mem = s.mem := rfl
@[simp] theorem setEip_memMap (s : State) (v : DWord) : (s.setEip v).memMap = s.memMap := rfl
@[simp] theorem setEip_trLayout (s : State) (v : DWord) : (s.setEip v).trLayout = s.trLayout := rfl
@[simp] theorem setEip_tlbIndexTable (s : State) (v : DWord) : (s.setEip v).tlbIndexTable = s.tlbIndexTable := rfl
@[simp] theorem setEip_ports (s : State) (v : DWord) : (s.setEip v).ports = s.ports := rfl
@[simp] theorem setEip_inputs (s : State) (v : DWord) : (s.setEip v).inputs = s.inputs := rfl
@[simp] theorem setEip_freeCount (s : State) (v : DWord) : (s.setEip v).freeCount = s.freeCount := rfl

@[simp] theorem setEip_sys (s : State) (v : DWord) : (s.setEip v).sys = s.sys := rfl

@[simp] theorem setEip_byteAt (s : State) (v : DWord) (a : DWord) : (s.setEip v).byteAt a = s.byteAt a := rfl

/-! ## advance -/

@[simp] theorem advance_gpr (s : State) (n : Nat) : (s.advance n).gpr = s.gpr := rfl
@[simp] theorem advance_eip (s : State) (n : Nat) : (s.advance n).eip = s.nextEip n := rfl
@[simp] theorem advance_eflags (s : State) (n : Nat) : (s.advance n).eflags = s.eflags := rfl
@[simp] theorem advance_seg (s : State) (n : Nat) : (s.advance n).seg = s.seg := rfl
@[simp] theorem advance_gdtr (s : State) (n : Nat) : (s.advance n).gdtr = s.gdtr := rfl
@[simp] theorem advance_idtr (s : State) (n : Nat) : (s.advance n).idtr = s.idtr := rfl
@[simp] theorem advance_ldtr (s : State) (n : Nat) : (s.advance n).ldtr = s.ldtr := rfl
@[simp] theorem advance_tr (s : State) (n : Nat) : (s.advance n).tr = s.tr := rfl
@[simp] theorem advance_cr0 (s : State) (n : Nat) : (s.advance n).cr0 = s.cr0 := rfl
@[simp] theorem advance_cr2 (s : State) (n : Nat) : (s.advance n).cr2 = s.cr2 := rfl
@[simp] theorem advance_cr3 (s : State) (n : Nat) : (s.advance n).cr3 = s.cr3 := rfl
@[simp] theorem advance_tr6 (s : State) (n : Nat) : (s.advance n).tr6 = s.tr6 := rfl
@[simp] theorem advance_tr7 (s : State) (n : Nat) : (s.advance n).tr7 = s.tr7 := rfl
@[simp] theorem advance_tlb (s : State) (n : Nat) : (s.advance n).tlb = s.tlb := rfl
@[simp] theorem advance_tlbMark (s : State) (n : Nat) : (s.advance n).tlbMark = s.tlbMark := rfl
@[simp] theorem advance_prefetchStale (s : State) (n : Nat) : (s.advance n).prefetchStale = s.prefetchStale := rfl
@[simp] theorem advance_cpl (s : State) (n : Nat) : (s.advance n).cpl = s.cpl := rfl
@[simp] theorem advance_run (s : State) (n : Nat) : (s.advance n).run = s.run := rfl
@[simp] theorem advance_ssLoaded (s : State) (n : Nat) : (s.advance n).ssLoaded = s.ssLoaded := rfl
@[simp] theorem advance_gdtrLoaded (s : State) (n : Nat) : (s.advance n).gdtrLoaded = s.gdtrLoaded := rfl
@[simp] theorem advance_holdOff (s : State) (n : Nat) : (s.advance n).holdOff = s.holdOff := rfl
@[simp] theorem advance_repeating (s : State) (n : Nat) : (s.advance n).repeating = s.repeating := rfl
@[simp] theorem advance_mem (s : State) (n : Nat) : (s.advance n).mem = s.mem := rfl
@[simp] theorem advance_memMap (s : State) (n : Nat) : (s.advance n).memMap = s.memMap := rfl
@[simp] theorem advance_trLayout (s : State) (n : Nat) : (s.advance n).trLayout = s.trLayout := rfl
@[simp] theorem advance_tlbIndexTable (s : State) (n : Nat) : (s.advance n).tlbIndexTable = s.tlbIndexTable := rfl
@[simp] theorem advance_ports (s : State) (n : Nat) : (s.advance n).ports = s.ports := rfl
@[simp] theorem advance_inputs (s : State) (n : Nat) : (s.advance n).inputs = s.inputs := rfl
@[simp] theorem advance_freeCount (s : State) (n : Nat) : (s.advance n).freeCount = s.freeCount := rfl

@[simp] theorem advance_sys (s : State) (n : Nat) : (s.advance n).sys = s.sys := rfl

@[simp] theorem advance_byteAt (s : State) (n : Nat) (a : DWord) : (s.advance n).byteAt a = s.byteAt a := rfl

/-! ## setRepeat -/

@[simp] theorem setRepeat_gpr (s : State) (r : Option Repeat) : (s.setRepeat r).gpr = s.gpr := rfl
@[simp] theorem setRepeat_eip (s : State) (r : Option Repeat) : (s.setRepeat r).eip = s.eip := rfl
@[simp] theorem setRepeat_eflags (s : State) (r : Option Repeat) : (s.setRepeat r).eflags = s.eflags := rfl
@[simp] theorem setRepeat_seg (s : State) (r : Option Repeat) : (s.setRepeat r).seg = s.seg := rfl
@[simp] theorem setRepeat_gdtr (s : State) (r : Option Repeat) : (s.setRepeat r).gdtr = s.gdtr := rfl
@[simp] theorem setRepeat_idtr (s : State) (r : Option Repeat) : (s.setRepeat r).idtr = s.idtr := rfl
@[simp] theorem setRepeat_ldtr (s : State) (r : Option Repeat) : (s.setRepeat r).ldtr = s.ldtr := rfl
@[simp] theorem setRepeat_tr (s : State) (r : Option Repeat) : (s.setRepeat r).tr = s.tr := rfl
@[simp] theorem setRepeat_cr0 (s : State) (r : Option Repeat) : (s.setRepeat r).cr0 = s.cr0 := rfl
@[simp] theorem setRepeat_cr2 (s : State) (r : Option Repeat) : (s.setRepeat r).cr2 = s.cr2 := rfl
@[simp] theorem setRepeat_cr3 (s : State) (r : Option Repeat) : (s.setRepeat r).cr3 = s.cr3 := rfl
@[simp] theorem setRepeat_tr6 (s : State) (r : Option Repeat) : (s.setRepeat r).tr6 = s.tr6 := rfl
@[simp] theorem setRepeat_tr7 (s : State) (r : Option Repeat) : (s.setRepeat r).tr7 = s.tr7 := rfl
@[simp] theorem setRepeat_tlb (s : State) (r : Option Repeat) : (s.setRepeat r).tlb = s.tlb := rfl
@[simp] theorem setRepeat_tlbMark (s : State) (r : Option Repeat) : (s.setRepeat r).tlbMark = s.tlbMark := rfl
@[simp] theorem setRepeat_prefetchStale (s : State) (r : Option Repeat) : (s.setRepeat r).prefetchStale = s.prefetchStale := rfl
@[simp] theorem setRepeat_cpl (s : State) (r : Option Repeat) : (s.setRepeat r).cpl = s.cpl := rfl
@[simp] theorem setRepeat_run (s : State) (r : Option Repeat) : (s.setRepeat r).run = s.run := rfl
@[simp] theorem setRepeat_ssLoaded (s : State) (r : Option Repeat) : (s.setRepeat r).ssLoaded = s.ssLoaded := rfl
@[simp] theorem setRepeat_gdtrLoaded (s : State) (r : Option Repeat) : (s.setRepeat r).gdtrLoaded = s.gdtrLoaded := rfl
@[simp] theorem setRepeat_holdOff (s : State) (r : Option Repeat) : (s.setRepeat r).holdOff = s.holdOff := rfl
@[simp] theorem setRepeat_repeating (s : State) (r : Option Repeat) : (s.setRepeat r).repeating = r := rfl
@[simp] theorem setRepeat_mem (s : State) (r : Option Repeat) : (s.setRepeat r).mem = s.mem := rfl
@[simp] theorem setRepeat_memMap (s : State) (r : Option Repeat) : (s.setRepeat r).memMap = s.memMap := rfl
@[simp] theorem setRepeat_trLayout (s : State) (r : Option Repeat) : (s.setRepeat r).trLayout = s.trLayout := rfl
@[simp] theorem setRepeat_tlbIndexTable (s : State) (r : Option Repeat) : (s.setRepeat r).tlbIndexTable = s.tlbIndexTable := rfl
@[simp] theorem setRepeat_ports (s : State) (r : Option Repeat) : (s.setRepeat r).ports = s.ports := rfl
@[simp] theorem setRepeat_inputs (s : State) (r : Option Repeat) : (s.setRepeat r).inputs = s.inputs := rfl
@[simp] theorem setRepeat_freeCount (s : State) (r : Option Repeat) : (s.setRepeat r).freeCount = s.freeCount := rfl

@[simp] theorem setRepeat_byteAt (s : State) (r : Option Repeat) (a : DWord) : (s.setRepeat r).byteAt a = s.byteAt a := rfl

/-! ## flushPrefetch -/

@[simp] theorem flushPrefetch_gpr (s : State) : (s.flushPrefetch).gpr = s.gpr := rfl
@[simp] theorem flushPrefetch_eip (s : State) : (s.flushPrefetch).eip = s.eip := rfl
@[simp] theorem flushPrefetch_eflags (s : State) : (s.flushPrefetch).eflags = s.eflags := rfl
@[simp] theorem flushPrefetch_seg (s : State) : (s.flushPrefetch).seg = s.seg := rfl
@[simp] theorem flushPrefetch_gdtr (s : State) : (s.flushPrefetch).gdtr = s.gdtr := rfl
@[simp] theorem flushPrefetch_idtr (s : State) : (s.flushPrefetch).idtr = s.idtr := rfl
@[simp] theorem flushPrefetch_ldtr (s : State) : (s.flushPrefetch).ldtr = s.ldtr := rfl
@[simp] theorem flushPrefetch_tr (s : State) : (s.flushPrefetch).tr = s.tr := rfl
@[simp] theorem flushPrefetch_cr0 (s : State) : (s.flushPrefetch).cr0 = s.cr0 := rfl
@[simp] theorem flushPrefetch_cr2 (s : State) : (s.flushPrefetch).cr2 = s.cr2 := rfl
@[simp] theorem flushPrefetch_cr3 (s : State) : (s.flushPrefetch).cr3 = s.cr3 := rfl
@[simp] theorem flushPrefetch_tr6 (s : State) : (s.flushPrefetch).tr6 = s.tr6 := rfl
@[simp] theorem flushPrefetch_tr7 (s : State) : (s.flushPrefetch).tr7 = s.tr7 := rfl
@[simp] theorem flushPrefetch_tlb (s : State) : (s.flushPrefetch).tlb = s.tlb := rfl
@[simp] theorem flushPrefetch_tlbMark (s : State) : (s.flushPrefetch).tlbMark = s.tlbMark := rfl
@[simp] theorem flushPrefetch_prefetchStale (s : State) : (s.flushPrefetch).prefetchStale = false := rfl
@[simp] theorem flushPrefetch_cpl (s : State) : (s.flushPrefetch).cpl = s.cpl := rfl
@[simp] theorem flushPrefetch_run (s : State) : (s.flushPrefetch).run = s.run := rfl
@[simp] theorem flushPrefetch_ssLoaded (s : State) : (s.flushPrefetch).ssLoaded = s.ssLoaded := rfl
@[simp] theorem flushPrefetch_gdtrLoaded (s : State) : (s.flushPrefetch).gdtrLoaded = s.gdtrLoaded := rfl
@[simp] theorem flushPrefetch_holdOff (s : State) : (s.flushPrefetch).holdOff = s.holdOff := rfl
@[simp] theorem flushPrefetch_repeating (s : State) : (s.flushPrefetch).repeating = s.repeating := rfl
@[simp] theorem flushPrefetch_mem (s : State) : (s.flushPrefetch).mem = s.mem := rfl
@[simp] theorem flushPrefetch_memMap (s : State) : (s.flushPrefetch).memMap = s.memMap := rfl
@[simp] theorem flushPrefetch_trLayout (s : State) : (s.flushPrefetch).trLayout = s.trLayout := rfl
@[simp] theorem flushPrefetch_tlbIndexTable (s : State) : (s.flushPrefetch).tlbIndexTable = s.tlbIndexTable := rfl
@[simp] theorem flushPrefetch_ports (s : State) : (s.flushPrefetch).ports = s.ports := rfl
@[simp] theorem flushPrefetch_inputs (s : State) : (s.flushPrefetch).inputs = s.inputs := rfl
@[simp] theorem flushPrefetch_freeCount (s : State) : (s.flushPrefetch).freeCount = s.freeCount := rfl

@[simp] theorem flushPrefetch_byteAt (s : State) (a : DWord) : (s.flushPrefetch).byteAt a = s.byteAt a := rfl

/-! ## setMem -/

@[simp] theorem setMem_gpr (s : State) (m : Memory) : (s.setMem m).gpr = s.gpr := rfl
@[simp] theorem setMem_eip (s : State) (m : Memory) : (s.setMem m).eip = s.eip := rfl
@[simp] theorem setMem_eflags (s : State) (m : Memory) : (s.setMem m).eflags = s.eflags := rfl
@[simp] theorem setMem_seg (s : State) (m : Memory) : (s.setMem m).seg = s.seg := rfl
@[simp] theorem setMem_gdtr (s : State) (m : Memory) : (s.setMem m).gdtr = s.gdtr := rfl
@[simp] theorem setMem_idtr (s : State) (m : Memory) : (s.setMem m).idtr = s.idtr := rfl
@[simp] theorem setMem_ldtr (s : State) (m : Memory) : (s.setMem m).ldtr = s.ldtr := rfl
@[simp] theorem setMem_tr (s : State) (m : Memory) : (s.setMem m).tr = s.tr := rfl
@[simp] theorem setMem_cr0 (s : State) (m : Memory) : (s.setMem m).cr0 = s.cr0 := rfl
@[simp] theorem setMem_cr2 (s : State) (m : Memory) : (s.setMem m).cr2 = s.cr2 := rfl
@[simp] theorem setMem_cr3 (s : State) (m : Memory) : (s.setMem m).cr3 = s.cr3 := rfl
@[simp] theorem setMem_tr6 (s : State) (m : Memory) : (s.setMem m).tr6 = s.tr6 := rfl
@[simp] theorem setMem_tr7 (s : State) (m : Memory) : (s.setMem m).tr7 = s.tr7 := rfl
@[simp] theorem setMem_tlb (s : State) (m : Memory) : (s.setMem m).tlb = s.tlb := rfl
@[simp] theorem setMem_tlbMark (s : State) (m : Memory) : (s.setMem m).tlbMark = s.tlbMark := rfl
@[simp] theorem setMem_prefetchStale (s : State) (m : Memory) : (s.setMem m).prefetchStale = s.prefetchStale := rfl
@[simp] theorem setMem_cpl (s : State) (m : Memory) : (s.setMem m).cpl = s.cpl := rfl
@[simp] theorem setMem_run (s : State) (m : Memory) : (s.setMem m).run = s.run := rfl
@[simp] theorem setMem_ssLoaded (s : State) (m : Memory) : (s.setMem m).ssLoaded = s.ssLoaded := rfl
@[simp] theorem setMem_gdtrLoaded (s : State) (m : Memory) : (s.setMem m).gdtrLoaded = s.gdtrLoaded := rfl
@[simp] theorem setMem_holdOff (s : State) (m : Memory) : (s.setMem m).holdOff = s.holdOff := rfl
@[simp] theorem setMem_repeating (s : State) (m : Memory) : (s.setMem m).repeating = s.repeating := rfl
@[simp] theorem setMem_mem (s : State) (m : Memory) : (s.setMem m).mem = m := rfl
@[simp] theorem setMem_memMap (s : State) (m : Memory) : (s.setMem m).memMap = s.memMap := rfl
@[simp] theorem setMem_trLayout (s : State) (m : Memory) : (s.setMem m).trLayout = s.trLayout := rfl
@[simp] theorem setMem_tlbIndexTable (s : State) (m : Memory) : (s.setMem m).tlbIndexTable = s.tlbIndexTable := rfl
@[simp] theorem setMem_ports (s : State) (m : Memory) : (s.setMem m).ports = s.ports := rfl
@[simp] theorem setMem_inputs (s : State) (m : Memory) : (s.setMem m).inputs = s.inputs := rfl
@[simp] theorem setMem_freeCount (s : State) (m : Memory) : (s.setMem m).freeCount = s.freeCount := rfl

@[simp] theorem setMem_sys (s : State) (m : Memory) : (s.setMem m).sys = s.sys := rfl

/-! ## portWrite -/

@[simp] theorem portWrite_gpr (s : State) (p : Word16) (v : Byte) : (s.portWrite p v).gpr = s.gpr := rfl
@[simp] theorem portWrite_eip (s : State) (p : Word16) (v : Byte) : (s.portWrite p v).eip = s.eip := rfl
@[simp] theorem portWrite_eflags (s : State) (p : Word16) (v : Byte) : (s.portWrite p v).eflags = s.eflags := rfl
@[simp] theorem portWrite_seg (s : State) (p : Word16) (v : Byte) : (s.portWrite p v).seg = s.seg := rfl
@[simp] theorem portWrite_gdtr (s : State) (p : Word16) (v : Byte) : (s.portWrite p v).gdtr = s.gdtr := rfl
@[simp] theorem portWrite_idtr (s : State) (p : Word16) (v : Byte) : (s.portWrite p v).idtr = s.idtr := rfl
@[simp] theorem portWrite_ldtr (s : State) (p : Word16) (v : Byte) : (s.portWrite p v).ldtr = s.ldtr := rfl
@[simp] theorem portWrite_tr (s : State) (p : Word16) (v : Byte) : (s.portWrite p v).tr = s.tr := rfl
@[simp] theorem portWrite_cr0 (s : State) (p : Word16) (v : Byte) : (s.portWrite p v).cr0 = s.cr0 := rfl
@[simp] theorem portWrite_cr2 (s : State) (p : Word16) (v : Byte) : (s.portWrite p v).cr2 = s.cr2 := rfl
@[simp] theorem portWrite_cr3 (s : State) (p : Word16) (v : Byte) : (s.portWrite p v).cr3 = s.cr3 := rfl
@[simp] theorem portWrite_tr6 (s : State) (p : Word16) (v : Byte) : (s.portWrite p v).tr6 = s.tr6 := rfl
@[simp] theorem portWrite_tr7 (s : State) (p : Word16) (v : Byte) : (s.portWrite p v).tr7 = s.tr7 := rfl
@[simp] theorem portWrite_tlb (s : State) (p : Word16) (v : Byte) : (s.portWrite p v).tlb = s.tlb := rfl
@[simp] theorem portWrite_tlbMark (s : State) (p : Word16) (v : Byte) : (s.portWrite p v).tlbMark = s.tlbMark := rfl
@[simp] theorem portWrite_prefetchStale (s : State) (p : Word16) (v : Byte) : (s.portWrite p v).prefetchStale = s.prefetchStale := rfl
@[simp] theorem portWrite_cpl (s : State) (p : Word16) (v : Byte) : (s.portWrite p v).cpl = s.cpl := rfl
@[simp] theorem portWrite_run (s : State) (p : Word16) (v : Byte) : (s.portWrite p v).run = s.run := rfl
@[simp] theorem portWrite_ssLoaded (s : State) (p : Word16) (v : Byte) : (s.portWrite p v).ssLoaded = s.ssLoaded := rfl
@[simp] theorem portWrite_gdtrLoaded (s : State) (p : Word16) (v : Byte) : (s.portWrite p v).gdtrLoaded = s.gdtrLoaded := rfl
@[simp] theorem portWrite_holdOff (s : State) (p : Word16) (v : Byte) : (s.portWrite p v).holdOff = s.holdOff := rfl
@[simp] theorem portWrite_repeating (s : State) (p : Word16) (v : Byte) : (s.portWrite p v).repeating = s.repeating := rfl
@[simp] theorem portWrite_mem (s : State) (p : Word16) (v : Byte) : (s.portWrite p v).mem = s.mem := rfl
@[simp] theorem portWrite_memMap (s : State) (p : Word16) (v : Byte) : (s.portWrite p v).memMap = s.memMap := rfl
@[simp] theorem portWrite_trLayout (s : State) (p : Word16) (v : Byte) : (s.portWrite p v).trLayout = s.trLayout := rfl
@[simp] theorem portWrite_tlbIndexTable (s : State) (p : Word16) (v : Byte) : (s.portWrite p v).tlbIndexTable = s.tlbIndexTable := rfl
@[simp] theorem portWrite_ports (s : State) (p : Word16) (v : Byte) : (s.portWrite p v).ports = s.ports ++ [⟨p, 1, v⟩] := rfl
@[simp] theorem portWrite_inputs (s : State) (p : Word16) (v : Byte) : (s.portWrite p v).inputs = s.inputs := rfl
@[simp] theorem portWrite_freeCount (s : State) (p : Word16) (v : Byte) : (s.portWrite p v).freeCount = s.freeCount := rfl

@[simp] theorem portWrite_byteAt (s : State) (p : Word16) (v : Byte) (a : DWord) : (s.portWrite p v).byteAt a = s.byteAt a := rfl

/-! ## drawn -/

@[simp] theorem drawn_gpr (s : State) : (s.drawn).gpr = s.gpr := rfl
@[simp] theorem drawn_eip (s : State) : (s.drawn).eip = s.eip := rfl
@[simp] theorem drawn_eflags (s : State) : (s.drawn).eflags = s.eflags := rfl
@[simp] theorem drawn_seg (s : State) : (s.drawn).seg = s.seg := rfl
@[simp] theorem drawn_gdtr (s : State) : (s.drawn).gdtr = s.gdtr := rfl
@[simp] theorem drawn_idtr (s : State) : (s.drawn).idtr = s.idtr := rfl
@[simp] theorem drawn_ldtr (s : State) : (s.drawn).ldtr = s.ldtr := rfl
@[simp] theorem drawn_tr (s : State) : (s.drawn).tr = s.tr := rfl
@[simp] theorem drawn_cr0 (s : State) : (s.drawn).cr0 = s.cr0 := rfl
@[simp] theorem drawn_cr2 (s : State) : (s.drawn).cr2 = s.cr2 := rfl
@[simp] theorem drawn_cr3 (s : State) : (s.drawn).cr3 = s.cr3 := rfl
@[simp] theorem drawn_tr6 (s : State) : (s.drawn).tr6 = s.tr6 := rfl
@[simp] theorem drawn_tr7 (s : State) : (s.drawn).tr7 = s.tr7 := rfl
@[simp] theorem drawn_tlb (s : State) : (s.drawn).tlb = s.tlb := rfl
@[simp] theorem drawn_tlbMark (s : State) : (s.drawn).tlbMark = s.tlbMark := rfl
@[simp] theorem drawn_prefetchStale (s : State) : (s.drawn).prefetchStale = s.prefetchStale := rfl
@[simp] theorem drawn_cpl (s : State) : (s.drawn).cpl = s.cpl := rfl
@[simp] theorem drawn_run (s : State) : (s.drawn).run = s.run := rfl
@[simp] theorem drawn_ssLoaded (s : State) : (s.drawn).ssLoaded = s.ssLoaded := rfl
@[simp] theorem drawn_gdtrLoaded (s : State) : (s.drawn).gdtrLoaded = s.gdtrLoaded := rfl
@[simp] theorem drawn_holdOff (s : State) : (s.drawn).holdOff = s.holdOff := rfl
@[simp] theorem drawn_repeating (s : State) : (s.drawn).repeating = s.repeating := rfl
@[simp] theorem drawn_mem (s : State) : (s.drawn).mem = s.mem := rfl
@[simp] theorem drawn_memMap (s : State) : (s.drawn).memMap = s.memMap := rfl
@[simp] theorem drawn_trLayout (s : State) : (s.drawn).trLayout = s.trLayout := rfl
@[simp] theorem drawn_tlbIndexTable (s : State) : (s.drawn).tlbIndexTable = s.tlbIndexTable := rfl
@[simp] theorem drawn_ports (s : State) : (s.drawn).ports = s.ports := rfl
@[simp] theorem drawn_inputs (s : State) : (s.drawn).inputs = s.inputs := rfl
@[simp] theorem drawn_freeCount (s : State) : (s.drawn).freeCount = s.freeCount + 1 := rfl

@[simp] theorem drawn_sys (s : State) : (s.drawn).sys = s.sys := rfl

@[simp] theorem drawn_byteAt (s : State) (a : DWord) : (s.drawn).byteAt a = s.byteAt a := rfl

/-! ## setEflags -/

@[simp] theorem setEflags_gpr (s : State) (v : Eflags) : (s.setEflags v).gpr = s.gpr := rfl
@[simp] theorem setEflags_eip (s : State) (v : Eflags) : (s.setEflags v).eip = s.eip := rfl
@[simp] theorem setEflags_eflags (s : State) (v : Eflags) : (s.setEflags v).eflags = v := rfl
@[simp] theorem setEflags_seg (s : State) (v : Eflags) : (s.setEflags v).seg = s.seg := rfl
@[simp] theorem setEflags_gdtr (s : State) (v : Eflags) : (s.setEflags v).gdtr = s.gdtr := rfl
@[simp] theorem setEflags_idtr (s : State) (v : Eflags) : (s.setEflags v).idtr = s.idtr := rfl
@[simp] theorem setEflags_ldtr (s : State) (v : Eflags) : (s.setEflags v).ldtr = s.ldtr := rfl
@[simp] theorem setEflags_tr (s : State) (v : Eflags) : (s.setEflags v).tr = s.tr := rfl
@[simp] theorem setEflags_cr0 (s : State) (v : Eflags) : (s.setEflags v).cr0 = s.cr0 := rfl
@[simp] theorem setEflags_cr2 (s : State) (v : Eflags) : (s.setEflags v).cr2 = s.cr2 := rfl
@[simp] theorem setEflags_cr3 (s : State) (v : Eflags) : (s.setEflags v).cr3 = s.cr3 := rfl
@[simp] theorem setEflags_tr6 (s : State) (v : Eflags) : (s.setEflags v).tr6 = s.tr6 := rfl
@[simp] theorem setEflags_tr7 (s : State) (v : Eflags) : (s.setEflags v).tr7 = s.tr7 := rfl
@[simp] theorem setEflags_tlb (s : State) (v : Eflags) : (s.setEflags v).tlb = s.tlb := rfl
@[simp] theorem setEflags_tlbMark (s : State) (v : Eflags) : (s.setEflags v).tlbMark = s.tlbMark := rfl
@[simp] theorem setEflags_prefetchStale (s : State) (v : Eflags) : (s.setEflags v).prefetchStale = s.prefetchStale := rfl
@[simp] theorem setEflags_cpl (s : State) (v : Eflags) : (s.setEflags v).cpl = s.cpl := rfl
@[simp] theorem setEflags_run (s : State) (v : Eflags) : (s.setEflags v).run = s.run := rfl
@[simp] theorem setEflags_ssLoaded (s : State) (v : Eflags) : (s.setEflags v).ssLoaded = s.ssLoaded := rfl
@[simp] theorem setEflags_gdtrLoaded (s : State) (v : Eflags) : (s.setEflags v).gdtrLoaded = s.gdtrLoaded := rfl
@[simp] theorem setEflags_holdOff (s : State) (v : Eflags) : (s.setEflags v).holdOff = s.holdOff := rfl
@[simp] theorem setEflags_repeating (s : State) (v : Eflags) : (s.setEflags v).repeating = s.repeating := rfl
@[simp] theorem setEflags_mem (s : State) (v : Eflags) : (s.setEflags v).mem = s.mem := rfl
@[simp] theorem setEflags_memMap (s : State) (v : Eflags) : (s.setEflags v).memMap = s.memMap := rfl
@[simp] theorem setEflags_trLayout (s : State) (v : Eflags) : (s.setEflags v).trLayout = s.trLayout := rfl
@[simp] theorem setEflags_tlbIndexTable (s : State) (v : Eflags) : (s.setEflags v).tlbIndexTable = s.tlbIndexTable := rfl
@[simp] theorem setEflags_ports (s : State) (v : Eflags) : (s.setEflags v).ports = s.ports := rfl
@[simp] theorem setEflags_inputs (s : State) (v : Eflags) : (s.setEflags v).inputs = s.inputs := rfl
@[simp] theorem setEflags_freeCount (s : State) (v : Eflags) : (s.setEflags v).freeCount = s.freeCount := rfl

@[simp] theorem setEflags_sys (s : State) (v : Eflags) : (s.setEflags v).sys = s.sys := rfl

@[simp] theorem setEflags_byteAt (s : State) (v : Eflags) (a : DWord) : (s.setEflags v).byteAt a = s.byteAt a := rfl

/-! ## newFlags -/

@[simp] theorem newFlags_gpr (s : State) (f : DWord → Eflags → Eflags) : (s.newFlags f).gpr = s.gpr := rfl
@[simp] theorem newFlags_eip (s : State) (f : DWord → Eflags → Eflags) : (s.newFlags f).eip = s.eip := rfl
@[simp] theorem newFlags_eflags (s : State) (f : DWord → Eflags → Eflags) : (s.newFlags f).eflags = f s.freeNow s.eflags := rfl
@[simp] theorem newFlags_seg (s : State) (f : DWord → Eflags → Eflags) : (s.newFlags f).seg = s.seg := rfl
@[simp] theorem newFlags_gdtr (s : State) (f : DWord → Eflags → Eflags) : (s.newFlags f).gdtr = s.gdtr := rfl
@[simp] theorem newFlags_idtr (s : State) (f : DWord → Eflags → Eflags) : (s.newFlags f).idtr = s.idtr := rfl
@[simp] theorem newFlags_ldtr (s : State) (f : DWord → Eflags → Eflags) : (s.newFlags f).ldtr = s.ldtr := rfl
@[simp] theorem newFlags_tr (s : State) (f : DWord → Eflags → Eflags) : (s.newFlags f).tr = s.tr := rfl
@[simp] theorem newFlags_cr0 (s : State) (f : DWord → Eflags → Eflags) : (s.newFlags f).cr0 = s.cr0 := rfl
@[simp] theorem newFlags_cr2 (s : State) (f : DWord → Eflags → Eflags) : (s.newFlags f).cr2 = s.cr2 := rfl
@[simp] theorem newFlags_cr3 (s : State) (f : DWord → Eflags → Eflags) : (s.newFlags f).cr3 = s.cr3 := rfl
@[simp] theorem newFlags_tr6 (s : State) (f : DWord → Eflags → Eflags) : (s.newFlags f).tr6 = s.tr6 := rfl
@[simp] theorem newFlags_tr7 (s : State) (f : DWord → Eflags → Eflags) : (s.newFlags f).tr7 = s.tr7 := rfl
@[simp] theorem newFlags_tlb (s : State) (f : DWord → Eflags → Eflags) : (s.newFlags f).tlb = s.tlb := rfl
@[simp] theorem newFlags_tlbMark (s : State) (f : DWord → Eflags → Eflags) : (s.newFlags f).tlbMark = s.tlbMark := rfl
@[simp] theorem newFlags_prefetchStale (s : State) (f : DWord → Eflags → Eflags) : (s.newFlags f).prefetchStale = s.prefetchStale := rfl
@[simp] theorem newFlags_cpl (s : State) (f : DWord → Eflags → Eflags) : (s.newFlags f).cpl = s.cpl := rfl
@[simp] theorem newFlags_run (s : State) (f : DWord → Eflags → Eflags) : (s.newFlags f).run = s.run := rfl
@[simp] theorem newFlags_ssLoaded (s : State) (f : DWord → Eflags → Eflags) : (s.newFlags f).ssLoaded = s.ssLoaded := rfl
@[simp] theorem newFlags_gdtrLoaded (s : State) (f : DWord → Eflags → Eflags) : (s.newFlags f).gdtrLoaded = s.gdtrLoaded := rfl
@[simp] theorem newFlags_holdOff (s : State) (f : DWord → Eflags → Eflags) : (s.newFlags f).holdOff = s.holdOff := rfl
@[simp] theorem newFlags_repeating (s : State) (f : DWord → Eflags → Eflags) : (s.newFlags f).repeating = s.repeating := rfl
@[simp] theorem newFlags_mem (s : State) (f : DWord → Eflags → Eflags) : (s.newFlags f).mem = s.mem := rfl
@[simp] theorem newFlags_memMap (s : State) (f : DWord → Eflags → Eflags) : (s.newFlags f).memMap = s.memMap := rfl
@[simp] theorem newFlags_trLayout (s : State) (f : DWord → Eflags → Eflags) : (s.newFlags f).trLayout = s.trLayout := rfl
@[simp] theorem newFlags_tlbIndexTable (s : State) (f : DWord → Eflags → Eflags) : (s.newFlags f).tlbIndexTable = s.tlbIndexTable := rfl
@[simp] theorem newFlags_ports (s : State) (f : DWord → Eflags → Eflags) : (s.newFlags f).ports = s.ports := rfl
@[simp] theorem newFlags_inputs (s : State) (f : DWord → Eflags → Eflags) : (s.newFlags f).inputs = s.inputs := rfl
@[simp] theorem newFlags_freeCount (s : State) (f : DWord → Eflags → Eflags) : (s.newFlags f).freeCount = s.freeCount + 1 := rfl

@[simp] theorem newFlags_sys (s : State) (f : DWord → Eflags → Eflags) : (s.newFlags f).sys = s.sys := rfl

@[simp] theorem newFlags_byteAt (s : State) (f : DWord → Eflags → Eflags) (a : DWord) : (s.newFlags f).byteAt a = s.byteAt a := rfl

/-! ## clobberFlags -/

@[simp] theorem clobberFlags_gpr (s : State) : (s.clobberFlags).gpr = s.gpr := rfl
@[simp] theorem clobberFlags_eip (s : State) : (s.clobberFlags).eip = s.eip := rfl
@[simp] theorem clobberFlags_eflags (s : State) : (s.clobberFlags).eflags = undefinedFlags s.freeNow s.eflags := rfl
@[simp] theorem clobberFlags_seg (s : State) : (s.clobberFlags).seg = s.seg := rfl
@[simp] theorem clobberFlags_gdtr (s : State) : (s.clobberFlags).gdtr = s.gdtr := rfl
@[simp] theorem clobberFlags_idtr (s : State) : (s.clobberFlags).idtr = s.idtr := rfl
@[simp] theorem clobberFlags_ldtr (s : State) : (s.clobberFlags).ldtr = s.ldtr := rfl
@[simp] theorem clobberFlags_tr (s : State) : (s.clobberFlags).tr = s.tr := rfl
@[simp] theorem clobberFlags_cr0 (s : State) : (s.clobberFlags).cr0 = s.cr0 := rfl
@[simp] theorem clobberFlags_cr2 (s : State) : (s.clobberFlags).cr2 = s.cr2 := rfl
@[simp] theorem clobberFlags_cr3 (s : State) : (s.clobberFlags).cr3 = s.cr3 := rfl
@[simp] theorem clobberFlags_tr6 (s : State) : (s.clobberFlags).tr6 = s.tr6 := rfl
@[simp] theorem clobberFlags_tr7 (s : State) : (s.clobberFlags).tr7 = s.tr7 := rfl
@[simp] theorem clobberFlags_tlb (s : State) : (s.clobberFlags).tlb = s.tlb := rfl
@[simp] theorem clobberFlags_tlbMark (s : State) : (s.clobberFlags).tlbMark = s.tlbMark := rfl
@[simp] theorem clobberFlags_prefetchStale (s : State) : (s.clobberFlags).prefetchStale = s.prefetchStale := rfl
@[simp] theorem clobberFlags_cpl (s : State) : (s.clobberFlags).cpl = s.cpl := rfl
@[simp] theorem clobberFlags_run (s : State) : (s.clobberFlags).run = s.run := rfl
@[simp] theorem clobberFlags_ssLoaded (s : State) : (s.clobberFlags).ssLoaded = s.ssLoaded := rfl
@[simp] theorem clobberFlags_gdtrLoaded (s : State) : (s.clobberFlags).gdtrLoaded = s.gdtrLoaded := rfl
@[simp] theorem clobberFlags_holdOff (s : State) : (s.clobberFlags).holdOff = s.holdOff := rfl
@[simp] theorem clobberFlags_repeating (s : State) : (s.clobberFlags).repeating = s.repeating := rfl
@[simp] theorem clobberFlags_mem (s : State) : (s.clobberFlags).mem = s.mem := rfl
@[simp] theorem clobberFlags_memMap (s : State) : (s.clobberFlags).memMap = s.memMap := rfl
@[simp] theorem clobberFlags_trLayout (s : State) : (s.clobberFlags).trLayout = s.trLayout := rfl
@[simp] theorem clobberFlags_tlbIndexTable (s : State) : (s.clobberFlags).tlbIndexTable = s.tlbIndexTable := rfl
@[simp] theorem clobberFlags_ports (s : State) : (s.clobberFlags).ports = s.ports := rfl
@[simp] theorem clobberFlags_inputs (s : State) : (s.clobberFlags).inputs = s.inputs := rfl
@[simp] theorem clobberFlags_freeCount (s : State) : (s.clobberFlags).freeCount = s.freeCount + 1 := rfl

@[simp] theorem clobberFlags_sys (s : State) : (s.clobberFlags).sys = s.sys := rfl

@[simp] theorem clobberFlags_byteAt (s : State) (a : DWord) : (s.clobberFlags).byteAt a = s.byteAt a := rfl

/-! ## setZf -/

@[simp] theorem setZf_gpr (s : State) (b : Bool) : (s.setZf b).gpr = s.gpr := rfl
@[simp] theorem setZf_eip (s : State) (b : Bool) : (s.setZf b).eip = s.eip := rfl
@[simp] theorem setZf_eflags (s : State) (b : Bool) : (s.setZf b).eflags = { s.eflags with zf := b } := rfl
@[simp] theorem setZf_seg (s : State) (b : Bool) : (s.setZf b).seg = s.seg := rfl
@[simp] theorem setZf_gdtr (s : State) (b : Bool) : (s.setZf b).gdtr = s.gdtr := rfl
@[simp] theorem setZf_idtr (s : State) (b : Bool) : (s.setZf b).idtr = s.idtr := rfl
@[simp] theorem setZf_ldtr (s : State) (b : Bool) : (s.setZf b).ldtr = s.ldtr := rfl
@[simp] theorem setZf_tr (s : State) (b : Bool) : (s.setZf b).tr = s.tr := rfl
@[simp] theorem setZf_cr0 (s : State) (b : Bool) : (s.setZf b).cr0 = s.cr0 := rfl
@[simp] theorem setZf_cr2 (s : State) (b : Bool) : (s.setZf b).cr2 = s.cr2 := rfl
@[simp] theorem setZf_cr3 (s : State) (b : Bool) : (s.setZf b).cr3 = s.cr3 := rfl
@[simp] theorem setZf_tr6 (s : State) (b : Bool) : (s.setZf b).tr6 = s.tr6 := rfl
@[simp] theorem setZf_tr7 (s : State) (b : Bool) : (s.setZf b).tr7 = s.tr7 := rfl
@[simp] theorem setZf_tlb (s : State) (b : Bool) : (s.setZf b).tlb = s.tlb := rfl
@[simp] theorem setZf_tlbMark (s : State) (b : Bool) : (s.setZf b).tlbMark = s.tlbMark := rfl
@[simp] theorem setZf_prefetchStale (s : State) (b : Bool) : (s.setZf b).prefetchStale = s.prefetchStale := rfl
@[simp] theorem setZf_cpl (s : State) (b : Bool) : (s.setZf b).cpl = s.cpl := rfl
@[simp] theorem setZf_run (s : State) (b : Bool) : (s.setZf b).run = s.run := rfl
@[simp] theorem setZf_ssLoaded (s : State) (b : Bool) : (s.setZf b).ssLoaded = s.ssLoaded := rfl
@[simp] theorem setZf_gdtrLoaded (s : State) (b : Bool) : (s.setZf b).gdtrLoaded = s.gdtrLoaded := rfl
@[simp] theorem setZf_holdOff (s : State) (b : Bool) : (s.setZf b).holdOff = s.holdOff := rfl
@[simp] theorem setZf_repeating (s : State) (b : Bool) : (s.setZf b).repeating = s.repeating := rfl
@[simp] theorem setZf_mem (s : State) (b : Bool) : (s.setZf b).mem = s.mem := rfl
@[simp] theorem setZf_memMap (s : State) (b : Bool) : (s.setZf b).memMap = s.memMap := rfl
@[simp] theorem setZf_trLayout (s : State) (b : Bool) : (s.setZf b).trLayout = s.trLayout := rfl
@[simp] theorem setZf_tlbIndexTable (s : State) (b : Bool) : (s.setZf b).tlbIndexTable = s.tlbIndexTable := rfl
@[simp] theorem setZf_ports (s : State) (b : Bool) : (s.setZf b).ports = s.ports := rfl
@[simp] theorem setZf_inputs (s : State) (b : Bool) : (s.setZf b).inputs = s.inputs := rfl
@[simp] theorem setZf_freeCount (s : State) (b : Bool) : (s.setZf b).freeCount = s.freeCount := rfl

@[simp] theorem setZf_sys (s : State) (b : Bool) : (s.setZf b).sys = s.sys := rfl

@[simp] theorem setZf_byteAt (s : State) (b : Bool) (a : DWord) : (s.setZf b).byteAt a = s.byteAt a := rfl

/-! ## endSpecial -/

@[simp] theorem endSpecial_gpr (s : State) (n : Nat) : (s.endSpecial n).gpr = s.gpr := rfl
@[simp] theorem endSpecial_eip (s : State) (n : Nat) : (s.endSpecial n).eip = s.nextEip n := rfl
@[simp] theorem endSpecial_eflags (s : State) (n : Nat) : (s.endSpecial n).eflags = undefinedFlags s.freeNow s.eflags := rfl
@[simp] theorem endSpecial_seg (s : State) (n : Nat) : (s.endSpecial n).seg = s.seg := rfl
@[simp] theorem endSpecial_gdtr (s : State) (n : Nat) : (s.endSpecial n).gdtr = s.gdtr := rfl
@[simp] theorem endSpecial_idtr (s : State) (n : Nat) : (s.endSpecial n).idtr = s.idtr := rfl
@[simp] theorem endSpecial_ldtr (s : State) (n : Nat) : (s.endSpecial n).ldtr = s.ldtr := rfl
@[simp] theorem endSpecial_tr (s : State) (n : Nat) : (s.endSpecial n).tr = s.tr := rfl
@[simp] theorem endSpecial_cr0 (s : State) (n : Nat) : (s.endSpecial n).cr0 = s.cr0 := rfl
@[simp] theorem endSpecial_cr2 (s : State) (n : Nat) : (s.endSpecial n).cr2 = s.cr2 := rfl
@[simp] theorem endSpecial_cr3 (s : State) (n : Nat) : (s.endSpecial n).cr3 = s.cr3 := rfl
@[simp] theorem endSpecial_tr6 (s : State) (n : Nat) : (s.endSpecial n).tr6 = s.tr6 := rfl
@[simp] theorem endSpecial_tr7 (s : State) (n : Nat) : (s.endSpecial n).tr7 = s.tr7 := rfl
@[simp] theorem endSpecial_tlb (s : State) (n : Nat) : (s.endSpecial n).tlb = s.tlb := rfl
@[simp] theorem endSpecial_tlbMark (s : State) (n : Nat) : (s.endSpecial n).tlbMark = s.tlbMark := rfl
@[simp] theorem endSpecial_prefetchStale (s : State) (n : Nat) : (s.endSpecial n).prefetchStale = s.prefetchStale := rfl
@[simp] theorem endSpecial_cpl (s : State) (n : Nat) : (s.endSpecial n).cpl = s.cpl := rfl
@[simp] theorem endSpecial_run (s : State) (n : Nat) : (s.endSpecial n).run = s.run := rfl
@[simp] theorem endSpecial_ssLoaded (s : State) (n : Nat) : (s.endSpecial n).ssLoaded = s.ssLoaded := rfl
@[simp] theorem endSpecial_gdtrLoaded (s : State) (n : Nat) : (s.endSpecial n).gdtrLoaded = s.gdtrLoaded := rfl
@[simp] theorem endSpecial_holdOff (s : State) (n : Nat) : (s.endSpecial n).holdOff = s.holdOff := rfl
@[simp] theorem endSpecial_repeating (s : State) (n : Nat) : (s.endSpecial n).repeating = s.repeating := rfl
@[simp] theorem endSpecial_mem (s : State) (n : Nat) : (s.endSpecial n).mem = s.mem := rfl
@[simp] theorem endSpecial_memMap (s : State) (n : Nat) : (s.endSpecial n).memMap = s.memMap := rfl
@[simp] theorem endSpecial_trLayout (s : State) (n : Nat) : (s.endSpecial n).trLayout = s.trLayout := rfl
@[simp] theorem endSpecial_tlbIndexTable (s : State) (n : Nat) : (s.endSpecial n).tlbIndexTable = s.tlbIndexTable := rfl
@[simp] theorem endSpecial_ports (s : State) (n : Nat) : (s.endSpecial n).ports = s.ports := rfl
@[simp] theorem endSpecial_inputs (s : State) (n : Nat) : (s.endSpecial n).inputs = s.inputs := rfl
@[simp] theorem endSpecial_freeCount (s : State) (n : Nat) : (s.endSpecial n).freeCount = s.freeCount + 1 := rfl

@[simp] theorem endSpecial_sys (s : State) (n : Nat) : (s.endSpecial n).sys = s.sys := rfl

@[simp] theorem endSpecial_byteAt (s : State) (n : Nat) (a : DWord) : (s.endSpecial n).byteAt a = s.byteAt a := rfl

/-! ## endHoldOff -/

@[simp] theorem endHoldOff_gpr (s : State) : (s.endHoldOff).gpr = s.gpr := rfl
@[simp] theorem endHoldOff_eip (s : State) : (s.endHoldOff).eip = s.eip := rfl
@[simp] theorem endHoldOff_eflags (s : State) : (s.endHoldOff).eflags = s.eflags := rfl
@[simp] theorem endHoldOff_seg (s : State) : (s.endHoldOff).seg = s.seg := rfl
@[simp] theorem endHoldOff_gdtr (s : State) : (s.endHoldOff).gdtr = s.gdtr := rfl
@[simp] theorem endHoldOff_idtr (s : State) : (s.endHoldOff).idtr = s.idtr := rfl
@[simp] theorem endHoldOff_ldtr (s : State) : (s.endHoldOff).ldtr = s.ldtr := rfl
@[simp] theorem endHoldOff_tr (s : State) : (s.endHoldOff).tr = s.tr := rfl
@[simp] theorem endHoldOff_cr0 (s : State) : (s.endHoldOff).cr0 = s.cr0 := rfl
@[simp] theorem endHoldOff_cr2 (s : State) : (s.endHoldOff).cr2 = s.cr2 := rfl
@[simp] theorem endHoldOff_cr3 (s : State) : (s.endHoldOff).cr3 = s.cr3 := rfl
@[simp] theorem endHoldOff_tr6 (s : State) : (s.endHoldOff).tr6 = s.tr6 := rfl
@[simp] theorem endHoldOff_tr7 (s : State) : (s.endHoldOff).tr7 = s.tr7 := rfl
@[simp] theorem endHoldOff_tlb (s : State) : (s.endHoldOff).tlb = s.tlb := rfl
@[simp] theorem endHoldOff_tlbMark (s : State) : (s.endHoldOff).tlbMark = s.tlbMark := rfl
@[simp] theorem endHoldOff_prefetchStale (s : State) : (s.endHoldOff).prefetchStale = s.prefetchStale := rfl
@[simp] theorem endHoldOff_cpl (s : State) : (s.endHoldOff).cpl = s.cpl := rfl
@[simp] theorem endHoldOff_run (s : State) : (s.endHoldOff).run = s.run := rfl
@[simp] theorem endHoldOff_ssLoaded (s : State) : (s.endHoldOff).ssLoaded = s.ssLoaded := rfl
@[simp] theorem endHoldOff_gdtrLoaded (s : State) : (s.endHoldOff).gdtrLoaded = s.gdtrLoaded := rfl
@[simp] theorem endHoldOff_holdOff (s : State) : (s.endHoldOff).holdOff = false := rfl
@[simp] theorem endHoldOff_repeating (s : State) : (s.endHoldOff).repeating = s.repeating := rfl
@[simp] theorem endHoldOff_mem (s : State) : (s.endHoldOff).mem = s.mem := rfl
@[simp] theorem endHoldOff_memMap (s : State) : (s.endHoldOff).memMap = s.memMap := rfl
@[simp] theorem endHoldOff_trLayout (s : State) : (s.endHoldOff).trLayout = s.trLayout := rfl
@[simp] theorem endHoldOff_tlbIndexTable (s : State) : (s.endHoldOff).tlbIndexTable = s.tlbIndexTable := rfl
@[simp] theorem endHoldOff_ports (s : State) : (s.endHoldOff).ports = s.ports := rfl
@[simp] theorem endHoldOff_inputs (s : State) : (s.endHoldOff).inputs = s.inputs := rfl
@[simp] theorem endHoldOff_freeCount (s : State) : (s.endHoldOff).freeCount = s.freeCount := rfl

@[simp] theorem endHoldOff_byteAt (s : State) (a : DWord) : (s.endHoldOff).byteAt a = s.byteAt a := rfl

/-! ## clearNmi -/

@[simp] theorem clearNmi_gpr (s : State) : (s.clearNmi).gpr = s.gpr := rfl
@[simp] theorem clearNmi_eip (s : State) : (s.clearNmi).eip = s.eip := rfl
@[simp] theorem clearNmi_eflags (s : State) : (s.clearNmi).eflags = s.eflags := rfl
@[simp] theorem clearNmi_seg (s : State) : (s.clearNmi).seg = s.seg := rfl
@[simp] theorem clearNmi_gdtr (s : State) : (s.clearNmi).gdtr = s.gdtr := rfl
@[simp] theorem clearNmi_idtr (s : State) : (s.clearNmi).idtr = s.idtr := rfl
@[simp] theorem clearNmi_ldtr (s : State) : (s.clearNmi).ldtr = s.ldtr := rfl
@[simp] theorem clearNmi_tr (s : State) : (s.clearNmi).tr = s.tr := rfl
@[simp] theorem clearNmi_cr0 (s : State) : (s.clearNmi).cr0 = s.cr0 := rfl
@[simp] theorem clearNmi_cr2 (s : State) : (s.clearNmi).cr2 = s.cr2 := rfl
@[simp] theorem clearNmi_cr3 (s : State) : (s.clearNmi).cr3 = s.cr3 := rfl
@[simp] theorem clearNmi_tr6 (s : State) : (s.clearNmi).tr6 = s.tr6 := rfl
@[simp] theorem clearNmi_tr7 (s : State) : (s.clearNmi).tr7 = s.tr7 := rfl
@[simp] theorem clearNmi_tlb (s : State) : (s.clearNmi).tlb = s.tlb := rfl
@[simp] theorem clearNmi_tlbMark (s : State) : (s.clearNmi).tlbMark = s.tlbMark := rfl
@[simp] theorem clearNmi_prefetchStale (s : State) : (s.clearNmi).prefetchStale = s.prefetchStale := rfl
@[simp] theorem clearNmi_cpl (s : State) : (s.clearNmi).cpl = s.cpl := rfl
@[simp] theorem clearNmi_run (s : State) : (s.clearNmi).run = s.run := rfl
@[simp] theorem clearNmi_ssLoaded (s : State) : (s.clearNmi).ssLoaded = s.ssLoaded := rfl
@[simp] theorem clearNmi_gdtrLoaded (s : State) : (s.clearNmi).gdtrLoaded = s.gdtrLoaded := rfl
@[simp] theorem clearNmi_holdOff (s : State) : (s.clearNmi).holdOff = s.holdOff := rfl
@[simp] theorem clearNmi_repeating (s : State) : (s.clearNmi).repeating = s.repeating := rfl
@[simp] theorem clearNmi_mem (s : State) : (s.clearNmi).mem = s.mem := rfl
@[simp] theorem clearNmi_memMap (s : State) : (s.clearNmi).memMap = s.memMap := rfl
@[simp] theorem clearNmi_trLayout (s : State) : (s.clearNmi).trLayout = s.trLayout := rfl
@[simp] theorem clearNmi_tlbIndexTable (s : State) : (s.clearNmi).tlbIndexTable = s.tlbIndexTable := rfl
@[simp] theorem clearNmi_ports (s : State) : (s.clearNmi).ports = s.ports := rfl
@[simp] theorem clearNmi_inputs (s : State) : (s.clearNmi).inputs = { s.inputs with nmi := false } := rfl
@[simp] theorem clearNmi_freeCount (s : State) : (s.clearNmi).freeCount = s.freeCount := rfl

@[simp] theorem clearNmi_byteAt (s : State) (a : DWord) : (s.clearNmi).byteAt a = s.byteAt a := rfl

end Sys2Proof.Machine
end

