-- ==== Sys2Proof/Laws/Registers.lean ====
section
/-! SUPPORT. Reading a register after writing one: general registers and their narrower views (spec/10_state.md R20, R21), segment
registers (R24). -/

namespace Sys2Proof.Machine

open Sys2Proof

@[simp] theorem Gpr.get_set_same (g : Gpr) (r : Reg) (v : DWord) : (g.set r v).get r = v := by cases r <;> rfl

theorem Gpr.get_set_other (g : Gpr) {r q : Reg} (v : DWord) (hq : q ≠ r) : (g.set r v).get q = g.get q := by
  cases r <;> cases q <;> first | rfl | exact absurd rfl hq

@[simp] theorem Segs.get_set_same (g : Segs) (r : SReg) (v : SegReg) : (g.set r v).get r = v := by cases r <;> rfl

theorem Segs.get_set_other (g : Segs) {r q : SReg} (v : SegReg) (hq : q ≠ r) : (g.set r v).get q = g.get q := by
  cases r <;> cases q <;> first | rfl | exact absurd rfl hq

/-- The bits of a register after a write to its low `w` bits. -/
theorem mergeLow_getLsbD {w : Nat} (hw : w ≤ 32) (old : DWord) (v : BitVec w) (k : Nat) :
    (mergeLow w old v).getLsbD k = if k < w then v.getLsbD k else old.getLsbD k := by
  simp only [mergeLow, BitVec.getLsbD_or, BitVec.getLsbD_shiftLeft, BitVec.getLsbD_ushiftRight, BitVec.getLsbD_setWidth]
  by_cases h32 : k < 32
  · by_cases hk : k < w
    · simp [hk, h32]
    · have : w + (k - w) = k := by omega
      simp [hk, h32, this, BitVec.getLsbD_of_ge v k (by omega)]
  · simp [h32, show ¬ k < w by omega, BitVec.getLsbD_of_ge old k (by omega)]

/-- The bits of a word after a write to the `n` from `i` on. -/
theorem mergeBits_getLsbD {n : Nat} (i : Nat) (hi : i + n ≤ 32) (old : DWord) (v : BitVec n) (k : Nat) :
    (mergeBits i old v).getLsbD k = if i ≤ k ∧ k < i + n then v.getLsbD (k - i) else old.getLsbD k := by
  simp only [mergeBits, BitVec.getLsbD_or, BitVec.getLsbD_and, BitVec.getLsbD_not, BitVec.getLsbD_shiftLeft,
    BitVec.getLsbD_setWidth, BitVec.getLsbD_allOnes]
  by_cases h32 : k < 32
  · by_cases hk : i ≤ k ∧ k < i + n
    · have a1 : ¬ k < i := by omega
      have a2 : k - i < n := by omega
      have a3 : k - i < 32 := by omega
      simp [hk, h32, a1, a2, a3]
    · by_cases hlt : k < i
      · simp [h32, hlt, show ¬ (i ≤ k) by omega]
      · have a2 : ¬ (k - i < n) := by omega
        simp [h32, hlt, a2, hk, BitVec.getLsbD_of_ge v (k - i) (by omega)]
  · have : ¬ (i ≤ k ∧ k < i + n) := by omega
    simp [h32, this, BitVec.getLsbD_of_ge old k (by omega)]

@[simp] theorem reg_setReg_same {w : Nat} (hw : w ≤ 32) (s : State) (r : Reg) (v : BitVec w) : (s.setReg w r v).reg w r = v := by
  refine BitVec.eq_of_getLsbD_eq fun k hk => ?_
  simp [State.reg, mergeLow_getLsbD hw, hk]

theorem reg_setReg_other {w u : Nat} (s : State) {r q : Reg} (v : BitVec w) (hq : q ≠ r) : (s.setReg w r v).reg u q = s.reg u q := by
  simp [State.reg, Gpr.get_set_other _ _ hq]

/-- Writing the low `w` bits of a register. -/
theorem regWritten_setReg {w : Nat} (hw : w ≤ 32) (s : State) (r : Reg) (v : BitVec w) : RegWritten w s (s.setReg w r v) r v := by
  refine ⟨reg_setReg_same hw s r v, fun k hk => ?_, fun q hq => ?_⟩
  · simp [mergeLow_getLsbD hw, show ¬ k < w by omega]
  · simp [Gpr.get_set_other _ _ hq]

theorem reg8_shift_le (r : Reg8) : r.shift + 8 ≤ 32 := by cases r <;> decide

/-- Writing a byte register. -/
theorem reg8Written_setReg8 (s : State) (r : Reg8) (v : Byte) : Reg8Written s (s.setReg8 r v) r v := by
  refine ⟨?_, fun k hk => ?_, fun q hq => ?_⟩
  · refine BitVec.eq_of_getLsbD_eq fun k hk => ?_
    have := BitVec.getLsbD_eq_getElem (x := v) hk
    simp [State.reg8, mergeBits_getLsbD _ (reg8_shift_le r), hk]
  · simp only [setReg8_gpr, Gpr.get_set_same, mergeBits_getLsbD _ (reg8_shift_le r)]
    rw [if_neg (by omega)]
  · simp [Gpr.get_set_other _ _ hq]

/-- What holds of a register write depends on the general registers alone. -/
theorem RegWritten.congr {w : Nat} {s t u : State} {r : Reg} {v : BitVec w} (h : RegWritten w s t r v) (hg : u.gpr = t.gpr) :
    RegWritten w s u r v := by
  simpa [RegWritten, State.reg, hg] using h

theorem Reg8Written.congr {s t u : State} {r : Reg8} {v : Byte} (h : Reg8Written s t r v) (hg : u.gpr = t.gpr) :
    Reg8Written s u r v := by
  simpa [Reg8Written, State.reg8, hg] using h

end Sys2Proof.Machine
end

