-- ==== Sys2Proof/Laws/Memory.lean ====
section
/-! SUPPORT. The laws of memory: reading after writing, and the canonical form (spec/20_memory.md R70, R71, R76, R77). -/

namespace Sys2Proof.Machine

open Sys2Proof

/-! ## The list of cells -/

theorem Memory.wfFrom_mono {lo lo' : Nat} (h : lo' ≤ lo) : ∀ {m : Memory}, Memory.wfFrom lo m = true → Memory.wfFrom lo' m = true
  | [], _ => rfl
  | (k, b) :: t, hm => by
    simp only [Memory.wfFrom, Bool.and_eq_true, decide_eq_true_eq] at hm ⊢
    exact ⟨⟨⟨by omega, hm.1.1.2⟩, hm.1.2⟩, hm.2⟩

/-- Nothing is listed below the address a canonical list starts from. -/
theorem Memory.get_below {lo : Nat} : ∀ {m : Memory}, Memory.wfFrom lo m = true → ∀ a, a < lo → m.get a = Config.unlistedByte
  | [], _, _, _ => rfl
  | (k, b) :: t, hm, a, ha => by
    simp only [Memory.wfFrom, Bool.and_eq_true, decide_eq_true_eq] at hm
    simp only [Memory.get]
    rw [if_neg (by omega)]
    exact Memory.get_below hm.2 a (by omega)

theorem Memory.get_cons_same (a : Nat) (b : Byte) (t : Memory) (ht : Memory.wfFrom (a + 1) t = true) :
    (Memory.cons a b t).get a = b := by
  unfold Memory.cons
  split
  · next h => rw [Memory.get_below ht a (by omega), h]
  · simp [Memory.get]

theorem Memory.get_cons_other {a x : Nat} (b : Byte) (t : Memory) (h : x ≠ a) : (Memory.cons a b t).get x = t.get x := by
  unfold Memory.cons
  split
  · rfl
  · simp [Memory.get, Ne.symm h]

theorem Memory.wfFrom_cons {lo a : Nat} (b : Byte) (t : Memory) (hlo : lo ≤ a) (ha : a < 2 ^ 32)
    (ht : Memory.wfFrom (a + 1) t = true) : Memory.wfFrom lo (Memory.cons a b t) = true := by
  unfold Memory.cons
  split
  · exact Memory.wfFrom_mono (by omega) ht
  · next hb => simpa [Memory.wfFrom, hlo, hb, ht] using ha

/-- Reading the address just written. -/
theorem Memory.get_set_same : ∀ {m : Memory} {lo : Nat}, Memory.wfFrom lo m = true → ∀ a b, (m.set a b).get a = b
  | [], _, _, a, b => Memory.get_cons_same a b [] rfl
  | (k, c) :: t, lo, hm, a, b => by
    simp only [Memory.wfFrom, Bool.and_eq_true, decide_eq_true_eq] at hm
    simp only [Memory.set]
    split
    · next h =>
      refine Memory.get_cons_same a b _ ?_
      simp only [Memory.wfFrom, Bool.and_eq_true, decide_eq_true_eq]
      exact ⟨⟨⟨by omega, hm.1.1.2⟩, hm.1.2⟩, hm.2⟩
    · split
      · next h => subst h; exact Memory.get_cons_same a b t hm.2
      · next h1 h2 => simp only [Memory.get]; rw [if_neg (fun e => h2 e.symm)]; exact Memory.get_set_same hm.2 a b

/-- Reading any other address. -/
theorem Memory.get_set_other : ∀ (m : Memory) {a x : Nat} (b : Byte), x ≠ a → (m.set a b).get x = m.get x
  | [], _, _, b, h => Memory.get_cons_other b [] h
  | (k, c) :: t, a, x, b, h => by
    simp only [Memory.set]
    split
    · exact Memory.get_cons_other b _ h
    · split
      · next h1 h2 => subst h2; rw [Memory.get_cons_other b t h]; simp [Memory.get, Ne.symm h]
      · simp only [Memory.get]; rw [Memory.get_set_other t b h]

theorem Memory.wfFrom_set : ∀ {m : Memory} {lo : Nat}, Memory.wfFrom lo m = true → ∀ a b, lo ≤ a → a < 2 ^ 32 →
    Memory.wfFrom lo (m.set a b) = true
  | [], _, _, a, b, hlo, ha => Memory.wfFrom_cons b [] hlo ha rfl
  | (k, c) :: t, lo, hm, a, b, hlo, ha => by
    simp only [Memory.wfFrom, Bool.and_eq_true, decide_eq_true_eq] at hm
    simp only [Memory.set]
    split
    · refine Memory.wfFrom_cons b _ hlo ha ?_
      simp only [Memory.wfFrom, Bool.and_eq_true, decide_eq_true_eq]
      exact ⟨⟨⟨by omega, hm.1.1.2⟩, hm.1.2⟩, hm.2⟩
    · split
      · next h => subst h; exact Memory.wfFrom_cons b t hlo ha hm.2
      · simp only [Memory.wfFrom, Bool.and_eq_true, decide_eq_true_eq]
        exact ⟨hm.1, Memory.wfFrom_set hm.2 a b (by omega) ha⟩

/-- Storing a byte keeps the canonical form. -/
theorem Memory.wf_set {m : Memory} (hm : m.wf = true) (a : DWord) (b : Byte) : (m.set a.toNat b).wf = true :=
  Memory.wfFrom_set hm a.toNat b (Nat.zero_le _) a.isLt

theorem reset_mem_wf : State.reset.mem.wf = true := rfl

/-! ## Single bytes -/

theorem phys_ok {s : State} (h : s.pg = false) (l : DWord) : s.phys l = .ok l := by simp [State.phys, h]

/-- What reading a byte can give. -/
theorem readByte_ok {s : State} {l : DWord} {b : Byte} (h : s.readByte l = .ok b) :
    s.pg = false ∧ kindAt s.memMap l.toNat ≠ .absent ∧ b = s.byteAt l := by
  unfold State.readByte State.phys refuse at h
  split at h
  · simp [Except.bind] at h
  · next hp =>
    refine ⟨by simpa using hp, ?_⟩
    simp only [Except.bind] at h
    split at h <;> simp_all [State.byteAt]

/-- Reading a byte where something answers. -/
theorem readByte_present {s : State} {l : DWord} (hp : s.pg = false) (hk : kindAt s.memMap l.toNat ≠ .absent) :
    s.readByte l = .ok (s.byteAt l) := by
  unfold State.readByte
  simp only [phys_ok hp, Except.bind]
  split
  · next h => exact absurd h hk
  · rfl
  · rfl

/-- What writing a byte can give. -/
theorem writeByte_ok {s t : State} {l : DWord} {b : Byte} (h : s.writeByte l b = .ok t) :
    s.pg = false ∧ ((kindAt s.memMap l.toNat = .ram ∧ t = s.setMem (s.mem.set l.toNat b)) ∨
      (kindAt s.memMap l.toNat = .rom ∧ t = s)) := by
  unfold State.writeByte State.phys refuse at h
  split at h
  · simp [Except.bind] at h
  · next hp =>
    refine ⟨by simpa using hp, ?_⟩
    simp only [Except.bind] at h
    split at h
    · simp at h
    · next hk => exact .inl ⟨hk, by simpa using h.symm⟩
    · next hk => exact .inr ⟨hk, by simpa using h.symm⟩

/-- A write of a byte changes memory only, and keeps its canonical form. -/
theorem writeByte_frame {s t : State} {l : DWord} {b : Byte} (h : s.writeByte l b = .ok t) :
    ∃ m, t = s.setMem m ∧ (s.mem.wf = true → m.wf = true) := by
  obtain ⟨-, ⟨-, rfl⟩ | ⟨-, rfl⟩⟩ := writeByte_ok h
  · exact ⟨_, rfl, fun hm => Memory.wf_set hm l b⟩
  · exact ⟨_, rfl, id⟩

/-- Writing a byte where something answers. -/
theorem writeByte_present {s : State} {l : DWord} (b : Byte) (hp : s.pg = false) (hk : kindAt s.memMap l.toNat ≠ .absent) :
    ∃ m, s.writeByte l b = .ok (s.setMem m) := by
  unfold State.writeByte
  simp only [phys_ok hp, Except.bind]
  split
  · next h => exact absurd h hk
  · exact ⟨_, rfl⟩
  · exact ⟨s.mem, rfl⟩

/-! ## Several bytes -/

theorem leBytes_length : ∀ (n v : Nat), (leBytes n v).length = n
  | 0, _ => rfl
  | n + 1, v => by simp [leBytes, leBytes_length n]

/-- A write of bytes changes memory only, and keeps its canonical form. -/
theorem writeBytes_frame : ∀ {bs : List Byte} {s t : State} {l : DWord}, s.writeBytes l bs = .ok t →
    ∃ m, t = s.setMem m ∧ (s.mem.wf = true → m.wf = true)
  | [], s, t, l, h => ⟨s.mem, by simp only [State.writeBytes, Except.ok.injEq] at h; exact h.symm, id⟩
  | b :: bs, s, t, l, h => by
    simp only [State.writeBytes] at h
    cases h1 : s.writeByte l b with
    | error e => simp [h1, Except.bind] at h
    | ok u =>
      rw [h1] at h
      obtain ⟨m, rfl, hm⟩ := writeByte_frame h1
      obtain ⟨m', rfl, hm'⟩ := writeBytes_frame (bs := bs) h
      exact ⟨m', rfl, fun hw => hm' (hm hw)⟩

theorem writeMem_frame {s t : State} {l : DWord} {n v : Nat} (h : s.writeMem l n v = .ok t) :
    ∃ m, t = s.setMem m ∧ (s.mem.wf = true → m.wf = true) := writeBytes_frame h

theorem add_ofNat_succ (a : DWord) (k : Nat) : a + 1 + BitVec.ofNat 32 k = a + BitVec.ofNat 32 (k + 1) := by
  rw [BitVec.add_assoc, BitVec.ofNat_add, BitVec.add_comm (BitVec.ofNat 32 k)]
  rfl

theorem Present.tail {s : State} {a : DWord} {n : Nat} (h : Present s a (n + 1)) : Present s (a + 1) n := by
  refine ⟨h.1, fun k hk => ?_⟩
  rw [add_ofNat_succ]
  exact h.2 (k + 1) (by omega)

theorem Present.head {s : State} {a : DWord} {n : Nat} (h : Present s a (n + 1)) : kindAt s.memMap a.toNat ≠ .absent := by
  simpa using h.2 0 (by omega)

theorem Present.setMem {s : State} {a : DWord} {n : Nat} (h : Present s a n) (m : Memory) : Present (s.setMem m) a n := h

/-- The bytes read where something answers. -/
theorem readBytes_present : ∀ {n : Nat} {s : State} {a : DWord}, Present s a n →
    s.readBytes a n = .ok ((List.range n).map fun k => s.byteAt (a + BitVec.ofNat 32 k))
  | 0, _, _, _ => rfl
  | n + 1, s, a, h => by
    simp only [State.readBytes, readByte_present h.1 h.head, Except.bind, readBytes_present h.tail, Except.map]
    congr 1
    rw [List.range_succ_eq_map, List.map_cons, List.map_map]
    congr 1
    · simp
    · refine List.map_congr_left fun k _ => ?_
      rw [Function.comp, add_ofNat_succ]

/-- The number read where something answers. -/
theorem readMem_present {n : Nat} {s : State} {a : DWord} (h : Present s a n) : s.readMem a n = .ok (s.valueAt a n) := by
  simp [State.readMem, readBytes_present h, Except.map, State.valueAt]

/-- One address further on, one byte nearer. -/
theorem toNat_sub_succ {x a : DWord} (hx : x ≠ a) : (x - a).toNat = (x - (a + 1)).toNat + 1 := by bv_omega

theorem within_succ {x a : DWord} {n : Nat} : within x a (n + 1) ↔ x = a ∨ (x ≠ a ∧ within x (a + 1) n) := by
  by_cases hx : x = a
  · subst hx; simp [within]
  · simp [within, hx, toNat_sub_succ hx]

/-- The byte at `x` once the bytes `bs` have been written from `a` on, at most 2^32 of them. -/
theorem writeBytes_byteAt : ∀ {bs : List Byte} {s t : State} {a : DWord}, s.mem.wf = true → bs.length ≤ 2 ^ 32 →
    s.writeBytes a bs = .ok t → ∀ x : DWord,
      t.byteAt x = if within x a bs.length ∧ kindAt s.memMap x.toNat = .ram then bs.getD (x - a).toNat 0 else s.byteAt x
  | [], s, t, a, _, _, h, x => by
    simp only [State.writeBytes, Except.ok.injEq] at h
    simp [← h, within]
  | b :: bs, s, t, a, hw, hl, h, x => by
    simp only [State.writeBytes] at h
    cases h1 : s.writeByte a b with
    | error e => simp [h1, Except.bind] at h
    | ok u =>
      rw [h1] at h
      obtain ⟨m, rfl, hm⟩ := writeByte_frame h1
      simp only [List.length_cons] at hl
      have ih := writeBytes_byteAt (bs := bs) (s := s.setMem m) (hm hw) (by omega) h x
      rw [ih]
      simp only [List.length_cons, setMem_memMap]
      by_cases hx : x = a
      · subst hx
        have hn : ¬ within x (x + 1) bs.length := by
          have e : x - (x + 1) = -1 := by bv_omega
          simp only [within, e]
          have : (-1 : DWord).toNat = 2 ^ 32 - 1 := by decide
          omega
        have hy : within x x (bs.length + 1) := by simp [within]
        obtain ⟨-, ⟨hk, e⟩ | ⟨hk, e⟩⟩ := writeByte_ok h1
        · have hm' : m = s.mem.set x.toNat b := by
            have := congrArg State.mem e; simpa using this
          simp only [hn, hy, hk, false_and, if_false, true_and, if_true, State.byteAt, setMem_mem, hm',
            Memory.get_set_same (lo := 0) hw]
          simp
        · have hm' : m = s.mem := by
            have := congrArg State.mem e; simpa using this
          simp [hk, State.byteAt, hm']
      · have hx' : (s.setMem m).byteAt x = s.byteAt x := by
          obtain ⟨-, ⟨hk, e⟩ | ⟨hk, e⟩⟩ := writeByte_ok h1
          · rw [e]
            simp only [State.byteAt, setMem_mem]
            exact Memory.get_set_other _ _ fun he => hx (BitVec.eq_of_toNat_eq he)
          · rw [e]
        have : within x a (bs.length + 1) ↔ within x (a + 1) bs.length := by
          rw [within_succ]; simp [hx]
        simp only [this, hx']
        congr 1
        rw [toNat_sub_succ hx]
        simp

theorem leBytes_getD : ∀ {n v k : Nat}, k < n → (leBytes n v).getD k 0 = BitVec.ofNat 8 (v / 256 ^ k)
  | 0, _, _, h => by omega
  | n + 1, v, 0, _ => by simp [leBytes]
  | n + 1, v, k + 1, h => by
    simp only [leBytes, List.getD_cons_succ]
    rw [leBytes_getD (by omega), Nat.div_div_eq_div_mul, Nat.pow_succ']

/-- Memory after a number has been stored. -/
theorem stored_writeMem {s t : State} {a : DWord} {n v : Nat} (hw : s.mem.wf = true) (hn : n ≤ 2 ^ 32)
    (h : s.writeMem a n v = .ok t) : Stored s t a n v := by
  have key := fun x => writeBytes_byteAt (bs := leBytes n v) hw (by rw [leBytes_length]; exact hn) h x
  simp only [leBytes_length] at key
  refine fun x => ⟨fun hi hk => ?_, fun hi hk => ?_, fun hi => ?_⟩
  · rw [key, if_pos ⟨hi, hk⟩, leBytes_getD hi]; rfl
  · rw [key, if_neg (by simp [hk])]
  · rw [key, if_neg fun c => hi c.1]

/-- Storing where something answers goes through. -/
theorem writeBytes_present : ∀ {bs : List Byte} {s : State} {a : DWord}, Present s a bs.length →
    ∃ m, s.writeBytes a bs = .ok (s.setMem m)
  | [], s, _, _ => ⟨s.mem, rfl⟩
  | b :: bs, s, a, h => by
    obtain ⟨m, hm⟩ := writeByte_present b h.1 h.head
    obtain ⟨m', hm'⟩ := writeBytes_present (bs := bs) (Present.setMem h.tail m)
    exact ⟨m', by simp only [State.writeBytes, hm, Except.bind, hm']; rfl⟩

theorem writeMem_present {s : State} {a : DWord} {n : Nat} (v : Nat) (h : Present s a n) :
    ∃ m, s.writeMem a n v = .ok (s.setMem m) :=
  writeBytes_present (by rw [leBytes_length]; exact h)

/-- Bytes placed in memory keep its canonical form. -/
theorem placeBytes_wf : ∀ (bs : List Byte) {m : Memory} (l : DWord), m.wf = true → (placeBytes m l bs).wf = true
  | [], _, _, h => h
  | b :: bs, _, l, h => placeBytes_wf bs (l + 1) (Memory.wf_set h l b)

end Sys2Proof.Machine
end

