-- ==== Sys2Proof/Laws/Outcome.lean ====
section
/-! SUPPORT. What the shared operations can answer: the end of an instruction, the taking of an exception, the operands. -/

namespace Sys2Proof.Machine

open Sys2Proof

/-! ## Results -/

theorem res_bind_ok {α β : Type} {x : Res α} {f : α → Res β} {b : β} (h : x.bind f = .ok b) : ∃ a, x = .ok a ∧ f a = .ok b := by
  cases x with
  | error e => simp [Except.bind] at h
  | ok a => exact ⟨a, rfl, h⟩

theorem res_map_ok {α β : Type} {x : Res α} {f : α → β} {b : β} (h : x.map f = .ok b) : ∃ a, x = .ok a ∧ b = f a := by
  cases x with
  | error e => simp [Except.map] at h
  | ok a => exact ⟨a, rfl, by simpa [Except.map] using h.symm⟩

@[simp] theorem ok_bind {α β : Type} (a : α) (f : α → Res β) : Except.bind (.ok a : Res α) f = f a := rfl
@[simp] theorem error_bind {α β : Type} (e : Stop) (f : α → Res β) : Except.bind (.error e : Res α) f = .error e := rfl
@[simp] theorem ok_map {α β : Type} (a : α) (f : α → β) : Except.map f (.ok a : Res α) = .ok (f a) := rfl
@[simp] theorem error_map {α β : Type} (e : Stop) (f : α → β) : Except.map f (.error e : Res α) = .error e := rfl

/-! ## The end of an instruction -/

@[simp] theorem conclude_ok (s t : State) : conclude s (.ok t) = .next t := rfl
@[simp] theorem conclude_raise (s : State) (e : Exc) : conclude s (.error (.raise e)) = takeEvent (.exception e) s := rfl
@[simp] theorem conclude_refuse (s : State) (r : Refusal) : conclude s (.error (.refuse r)) = .refused r := rfl

/-- An event with a zero limit (60_exceptions.md R262). -/
theorem takeEvent_zero {ev : Event} {s : State} (h : s.idtr.limit = 0) : takeEvent ev s = .next { s with run := .shutdown } := by
  simp [takeEvent, h]

/-- An event that gives a next state: the limit is zero and the processor has shut down. -/
theorem takeEvent_next {ev : Event} {s t : State} (h : takeEvent ev s = .next t) :
    s.idtr.limit = 0 ∧ t = { s with run := .shutdown } := by
  unfold takeEvent at h
  split at h
  · next hl => exact ⟨hl, by simpa using h.symm⟩
  · simp at h

/-- An instruction that gives a next state: its own, or the shutdown of an exception it raised. -/
theorem conclude_next {s t : State} {r : Res State} (h : conclude s r = .next t) :
    r = .ok t ∨ (∃ e, r = .error (.raise e)) ∧ s.idtr.limit = 0 ∧ t = { s with run := .shutdown } := by
  unfold conclude at h
  split at h
  · exact .inl (by simpa using h)
  · simp at h
  · exact .inr ⟨⟨_, rfl⟩, takeEvent_next h⟩

/-! ## Checks -/

/-- The privilege check that passes. -/
theorem requireCpl0_ok {s : State} {u : Unit} (h : s.requireCpl0 = .ok u) : Privileged s := by
  unfold State.requireCpl0 raise at h
  unfold Privileged
  cases hp : s.pe
  · exact .inl rfl
  · right
    by_cases hc : s.cpl = 0
    · exact hc
    · simp [hp] at h; exact absurd h hc

theorem requireCpl0_of_privileged {s : State} (h : Privileged s) : s.requireCpl0 = .ok () := by
  unfold State.requireCpl0
  rcases h with h | h <;> simp [h]

theorem requireCpl0_raise {s : State} (hp : s.pe = true) (hc : s.cpl ≠ 0) :
    s.requireCpl0 = .error (.raise (.generalProtection 0)) := by
  simp only [State.requireCpl0, raise, hp, Bool.true_and]
  rw [if_pos (by simpa using hc)]

/-! ## Operands -/

/-- From `s` to `t` only general registers and memory have changed, and memory is still canonical if it was. -/
def DataStep (s t : State) : Prop := ∃ g m, t = { s with gpr := g, mem := m } ∧ (s.mem.wf = true → m.wf = true)

theorem DataStep.refl (s : State) : DataStep s s := ⟨s.gpr, s.mem, rfl, id⟩

theorem DataStep.trans {s t u : State} (h : DataStep s t) (h' : DataStep t u) : DataStep s u := by
  obtain ⟨g, m, rfl, hm⟩ := h
  obtain ⟨g', m', rfl, hm'⟩ := h'
  exact ⟨g', m', rfl, fun hw => hm' (hm hw)⟩

theorem DataStep.setReg (w : Nat) (s : State) (r : Reg) (v : BitVec w) : DataStep s (s.setReg w r v) := ⟨_, s.mem, rfl, id⟩

theorem DataStep.setReg8 (s : State) (r : Reg8) (v : Byte) : DataStep s (s.setReg8 r v) := ⟨_, s.mem, rfl, id⟩

theorem DataStep.ofWriteBytes {s t : State} {a : DWord} {bs : List Byte} (h : s.writeBytes a bs = .ok t) : DataStep s t := by
  obtain ⟨m, rfl, hm⟩ := writeBytes_frame h
  exact ⟨s.gpr, m, rfl, hm⟩

theorem DataStep.ofWriteMem {s t : State} {a : DWord} {n v : Nat} (h : s.writeMem a n v = .ok t) : DataStep s t :=
  DataStep.ofWriteBytes h

theorem DataStep.ofWriteByte {s t : State} {a : DWord} {b : Byte} (h : s.writeByte a b = .ok t) : DataStep s t := by
  obtain ⟨m, rfl, hm⟩ := writeByte_frame h
  exact ⟨s.gpr, m, rfl, hm⟩

theorem writeRm_frame {w : Nat} {s t : State} {h : Hdr} {rm : RM Reg} {v : BitVec w} (e : writeRm w s h rm v = .ok t) :
    DataStep s t := by
  cases rm with
  | reg r => simp only [writeRm, Except.ok.injEq] at e; exact e ▸ DataStep.setReg w s r v
  | mem m =>
    obtain ⟨a, -, e⟩ := res_bind_ok e
    exact DataStep.ofWriteMem e

theorem writeRm8_frame {s t : State} {h : Hdr} {rm : RM Reg8} {v : Byte} (e : writeRm8 s h rm v = .ok t) : DataStep s t := by
  cases rm with
  | reg r => simp only [writeRm8, Except.ok.injEq] at e; exact e ▸ DataStep.setReg8 s r v
  | mem m =>
    obtain ⟨a, -, e⟩ := res_bind_ok e
    exact DataStep.ofWriteByte e

/-- Reading an operand that is ready. -/
theorem readRm_ready {w : Nat} {s : State} {h : Hdr} {rm : RM Reg} (hr : RmReady s h rm (w / 8)) :
    readRm w s h rm = .ok (rmValue w s h rm) := by
  cases rm with
  | reg r => rfl
  | mem m =>
    obtain ⟨ha, hp⟩ := hr
    simp only [readRm, rmValue]
    rw [ha, ok_bind, readMem_present hp]
    rfl

theorem readRm8_ready {s : State} {h : Hdr} {rm : RM Reg8} (hr : RmReady s h rm 1) :
    readRm8 s h rm = .ok (rmValue8 s h rm) := by
  cases rm with
  | reg r => rfl
  | mem m =>
    obtain ⟨ha, hp⟩ := hr
    simp only [readRm8, rmValue8]
    rw [ha, ok_bind, readByte_present hp.1 hp.head]
    rfl

/-- Writing an operand that is ready. -/
theorem writeRm_ready {w : Nat} (hw : w = 16 ∨ w = 32) {s : State} (hm : s.mem.wf = true) {h : Hdr} {rm : RM Reg} (v : BitVec w)
    (hr : RmReady s h rm (w / 8)) : ∃ t, writeRm w s h rm v = .ok t ∧ RmWritten w s t h rm v ∧ DataStep s t := by
  cases rm with
  | reg r => exact ⟨_, rfl, ⟨regWritten_setReg (by omega) s r v, fun _ => rfl⟩, DataStep.setReg w s r v⟩
  | mem m =>
    obtain ⟨ha, hp⟩ := hr
    obtain ⟨m', hm'⟩ := writeMem_present v.toNat hp
    refine ⟨s.setMem m', ?_, ⟨rfl, stored_writeMem hm (by omega) hm'⟩, DataStep.ofWriteMem hm'⟩
    simp only [writeRm]
    rw [ha, ok_bind, hm']

theorem writeRm8_ready {s : State} (hm : s.mem.wf = true) {h : Hdr} {rm : RM Reg8} (v : Byte) (hr : RmReady s h rm 1) :
    ∃ t, writeRm8 s h rm v = .ok t ∧ RmWritten8 s t h rm v ∧ DataStep s t := by
  cases rm with
  | reg r => exact ⟨_, rfl, ⟨reg8Written_setReg8 s r v, fun _ => rfl⟩, DataStep.setReg8 s r v⟩
  | mem m =>
    obtain ⟨ha, hp⟩ := hr
    have e : s.writeByte (addrOf (operandAddr s h m)) v = s.writeMem (addrOf (operandAddr s h m)) 1 v.toNat := by
      simp only [State.writeMem, leBytes, State.writeBytes, BitVec.ofNat_toNat, BitVec.setWidth_eq]
      cases s.writeByte (addrOf (operandAddr s h m)) v <;> rfl
    obtain ⟨m', hm'⟩ := writeMem_present v.toNat hp
    refine ⟨s.setMem m', ?_, ⟨rfl, stored_writeMem hm (by omega) hm'⟩, DataStep.ofWriteMem hm'⟩
    simp only [writeRm8]
    rw [ha, ok_bind, e, hm']

theorem DataStep.sys {s t : State} (h : DataStep s t) : t.sys = s.sys := by obtain ⟨g, m, rfl, -⟩ := h; rfl
theorem DataStep.eflags {s t : State} (h : DataStep s t) : t.eflags = s.eflags := by obtain ⟨g, m, rfl, -⟩ := h; rfl
theorem DataStep.nextEip {s t : State} (h : DataStep s t) (n : Nat) : t.nextEip n = s.nextEip n := by
  obtain ⟨g, m, rfl, -⟩ := h; rfl
theorem DataStep.freeNow {s t : State} (h : DataStep s t) : t.freeNow = s.freeNow := by obtain ⟨g, m, rfl, -⟩ := h; rfl

/-- An operand written is written in any state with the same registers and memory. -/
theorem RmWritten.congr {w : Nat} {s t u : State} {h : Hdr} {rm : RM Reg} {v : BitVec w} (e : RmWritten w s t h rm v)
    (hg : u.gpr = t.gpr) (hm : u.mem = t.mem) : RmWritten w s u h rm v := by
  cases rm with
  | reg r => exact ⟨e.1.congr hg, fun x => by rw [← e.2 x]; simp [State.byteAt, hm]⟩
  | mem m => exact ⟨hg.trans e.1, fun x => by simpa [State.byteAt, hm] using e.2 x⟩

theorem RmWritten8.congr {s t u : State} {h : Hdr} {rm : RM Reg8} {v : Byte} (e : RmWritten8 s t h rm v)
    (hg : u.gpr = t.gpr) (hm : u.mem = t.mem) : RmWritten8 s u h rm v := by
  cases rm with
  | reg r => exact ⟨e.1.congr hg, fun x => by rw [← e.2 x]; simp [State.byteAt, hm]⟩
  | mem m => exact ⟨hg.trans e.1, fun x => by simpa [State.byteAt, hm] using e.2 x⟩

/-! ## Segments and interrupts -/

theorem segOverride_none : ∀ {l : List Pfx}, (∀ x, Pfx.seg x ∉ l) → segOverride l = none
  | [], _ => rfl
  | p :: l, h => by
    have ih : segOverride l = none := segOverride_none fun x hx => h x (List.mem_cons_of_mem _ hx)
    cases p with
    | seg r => exact absurd (List.mem_cons_self ..) (h r)
    | _ => simpa [segOverride] using ih

theorem segOverride_last {q : List Pfx} (r : SReg) (h : ∀ x, Pfx.seg x ∉ q) : ∀ p : List Pfx, segOverride (p ++ Pfx.seg r :: q) = some r
  | [] => by simp [segOverride, segOverride_none h]
  | a :: p => by cases a <;> simp [segOverride, segOverride_last r h p]

/-- The segment of an operand, as a header gives it (30_encoding.md R101). -/
theorem hdrSegment_of_operandSegment {h : Hdr} {d r : SReg} (e : OperandSegment h d r) : hdrSegment h d = r := by
  rcases e with ⟨e, rfl⟩ | ⟨p, q, e, hq⟩
  · simp [hdrSegment, segOverride_none e]
  · simp [hdrSegment, e, segOverride_last r hq p]

/-- No interrupt comes first (60_exceptions.md R261, R264). -/
theorem interrupt_none {s : State} (h : NoInterrupt s) : s.interrupt = none := by
  unfold State.interrupt
  rcases h with h | ⟨h1, h2 | h2⟩
  · simp [h]
  · simp [h1, h2]
  · simp [h1, h2]

/-! ## The hold-off (42_descriptor_tables_and_segments.md R174) -/

/-- The hold-off is as it was, or ended, and nothing else has changed. -/
theorem entering_cases (s : State) (i : Instr) : s.entering i = s ∨ s.entering i = s.endHoldOff := by
  unfold State.entering; split
  · exact .inl rfl
  · exact .inr rfl

/-- A step that ends its instruction ends the hold-off. -/
theorem entering_last {s : State} {i : Instr} (h : ∀ g wide, i = .repMovs g wide → (s.reg g.as.bits .ecx).toNat ≤ 1) :
    s.entering i = s.endHoldOff := by
  have : moreToCome s i = false := by
    cases i with
    | repMovs g wide => simpa [moreToCome] using h g wide rfl
    | _ => rfl
  simp [State.entering, this]

/-- An iteration of a REP MOVS that another follows keeps the hold-off. -/
theorem entering_repMovs {s : State} {g : Hdr} (wide : Bool) (h : 1 < (s.reg g.as.bits .ecx).toNat) :
    s.entering (.repMovs g wide) = s := by
  simp [State.entering, moreToCome, h]

end Sys2Proof.Machine
end

