-- ==== Sys2Proof/Laws/Descriptors.lean ====
section
/-! SUPPORT. What reading a descriptor gives, what storing one byte does, and the access bytes that the checks accept. -/

namespace Sys2Proof.Machine

open Sys2Proof

/-- The bytes of a stretch of memory that can be accessed can be accessed in any part of it. -/
theorem Present.sub {s : State} {a : DWord} {n : Nat} (hp : Present s a n) (j k : Nat) (h : j + k ≤ n) :
    Present s (a + BitVec.ofNat 32 j) k := by
  refine ⟨hp.1, fun i hi => ?_⟩
  rw [BitVec.add_assoc, ← BitVec.ofNat_add]
  exact hp.2 _ (by omega)

theorem valueAt_two (s : State) (a : DWord) : s.valueAt a 2 = (s.byteAt a).toNat + 256 * (s.byteAt (a + 1)).toNat := by
  simp [State.valueAt, List.range_succ_eq_map, leValue]

theorem valueAt_three (s : State) (a : DWord) :
    s.valueAt a 3 = (s.byteAt a).toNat + 256 * (s.byteAt (a + 1)).toNat + 65536 * (s.byteAt (a + 2)).toNat := by
  simp [State.valueAt, List.range_succ_eq_map, leValue]; omega

theorem valueAt_four (s : State) (a : DWord) :
    s.valueAt a 4 = (s.byteAt a).toNat + 256 * (s.byteAt (a + 1)).toNat + 65536 * (s.byteAt (a + 2)).toNat +
      16777216 * (s.byteAt (a + 3)).toNat := by
  simp [State.valueAt, List.range_succ_eq_map, leValue]; omega

/-- Bit `k` of a little-endian number is bit `k % 8` of its byte `k / 8`. -/
theorem leValue_testBit : ∀ (l : List Byte) (k : Nat), (leValue l).testBit k = (l.getD (k / 8) 0).getLsbD (k % 8)
  | [], k => by simp [leValue]
  | b :: t, k => by
    have e : leValue (b :: t) = 2 ^ 8 * leValue t + b.toNat := by simp only [leValue]; omega
    rw [e, Nat.testBit_two_pow_mul_add _ b.isLt]
    split
    · next h => rw [Nat.div_eq_of_lt h, Nat.mod_eq_of_lt h]; rfl
    · next h =>
      rw [leValue_testBit t, show k / 8 = (k - 8) / 8 + 1 by omega, show k % 8 = (k - 8) % 8 by omega]
      rfl

theorem valueAt_testBit (s : State) (a : DWord) {n k : Nat} (h : k / 8 < n) :
    (s.valueAt a n).testBit k = (s.byteAt (a + BitVec.ofNat 32 (k / 8))).getLsbD (k % 8) := by
  rw [State.valueAt, leValue_testBit, List.getD_eq_getElem?_getD, List.getElem?_map, List.getElem?_range h]
  rfl

/-- A descriptor read where it can be accessed has the fields of its bytes (20_memory.md R81). -/
theorem readDesc_present {s : State} {a : DWord} (hp : Present s a 8) :
    ∃ d, s.readDesc a = .ok d ∧ d.base = descBase s a ∧ d.limit = descLimit s a ∧ d.access = s.byteAt (a + 5) ∧
      d.gran = s.byteAt (a + 6) := by
  refine ⟨_, by unfold State.readDesc; rw [readMem_present hp, ok_map], ?_⟩
  have bit : ∀ k, k < 64 → (BitVec.ofNat 64 (s.valueAt a 8)).getLsbD k =
      (s.byteAt (a + BitVec.ofNat 32 (k / 8))).getLsbD (k % 8) := fun k hk => by
    rw [BitVec.getLsbD_ofNat, valueAt_testBit s a (by omega)]
    simp [hk]
  have byte : ∀ j k, j ≤ k → k < j + 8 → j % 8 = 0 → k < 64 → (BitVec.ofNat 64 (s.valueAt a 8)).getLsbD k =
      (s.byteAt (a + BitVec.ofNat 32 (j / 8))).getLsbD (k - j) := fun j k h1 h2 h3 h4 => by
    rw [bit k h4, show k / 8 = j / 8 by omega, show k % 8 = k - j by omega]
  generalize BitVec.ofNat 64 (s.valueAt a 8) = W at bit byte
  have z : a + BitVec.ofNat 32 0 = a := by simp
  refine ⟨?_, ?_, ?_, ?_⟩
  · apply BitVec.eq_of_getLsbD_eq
    intro k hk
    simp only [Desc.ofBits, descBase, BitVec.getLsbD_append, BitVec.getLsbD_extractLsb']
    by_cases h1 : k < 8
    · rw [byte 16 _ (by omega) (by omega) rfl (by omega)]
      simp [h1, show k < 24 by omega, show k < 16 by omega]
    · by_cases h2 : k < 16
      · rw [byte 24 _ (by omega) (by omega) rfl (by omega)]
        simp [h1, h2, show k < 24 by omega, show 16 + k - 24 = k - 8 by omega]
      · by_cases h3 : k < 24
        · rw [byte 32 _ (by omega) (by omega) rfl (by omega)]
          simp [h2, h3, show 16 + k - 32 = k - 16 by omega]
        · rw [byte 56 (56 + (k - 24)) (by omega) (by omega) rfl (by omega)]
          simp [h3, show k - 24 < 8 by omega]
  · have g : W.getLsbD 55 = (s.byteAt (a + 6)).getLsbD 7 := byte 48 55 (by omega) (by omega) rfl (by omega)
    have lo : (W.extractLsb' 48 4 ++ W.extractLsb' 0 16 : BitVec 20) =
        ((s.byteAt (a + 6)).extractLsb' 0 4 ++ (s.byteAt (a + 1) ++ s.byteAt a) : BitVec 20) := by
      apply BitVec.eq_of_getLsbD_eq
      intro k hk
      simp only [BitVec.getLsbD_append, BitVec.getLsbD_extractLsb']
      by_cases h1 : k < 8
      · rw [byte 0 _ (by omega) (by omega) rfl (by omega)]
        simp [h1, show k < 16 by omega]
      · by_cases h2 : k < 16
        · rw [byte 8 _ (by omega) (by omega) rfl (by omega)]
          simp [h1, h2]
        · rw [byte 48 (48 + (k - 16)) (by omega) (by omega) rfl (by omega)]
          simp [h2, show k - 16 < 4 by omega]
    simp only [Desc.ofBits, descLimit, g, lo, expandLimit]
    split
    · apply BitVec.eq_of_getLsbD_eq
      intro k hk
      simp only [BitVec.getLsbD_append, Nat.sub_sub]
      split_ifs <;> first | omega | rfl
    · apply BitVec.eq_of_getLsbD_eq
      intro k hk
      rw [BitVec.getLsbD_setWidth, BitVec.getLsbD_append (x := 0#12)]
      by_cases h : k < 20
      · simp [hk, h]
      · rw [BitVec.getLsbD_of_ge _ k (by omega)]
        simp [h]
  · apply BitVec.eq_of_getLsbD_eq
    intro k hk
    simp only [Desc.ofBits, BitVec.getLsbD_extractLsb']
    rw [byte 40 _ (by omega) (by omega) rfl (by omega)]
    simp [hk]
  · apply BitVec.eq_of_getLsbD_eq
    intro k hk
    simp only [Desc.ofBits, BitVec.getLsbD_extractLsb']
    rw [byte 48 _ (by omega) (by omega) rfl (by omega)]
    simp [hk]

/-- One byte stored where something answers. -/
theorem writeByte_ready {s : State} {a : DWord} {b : Byte} (hm : s.mem.wf = true) (hp : Present s a 1) :
    ∃ m, s.writeByte a b = .ok (s.setMem m) ∧ Stored s (s.setMem m) a 1 b.toNat ∧ m.wf = true := by
  have e : s.writeByte a b = s.writeMem a 1 b.toNat := by
    simp only [State.writeMem, leBytes, State.writeBytes, BitVec.ofNat_toNat, BitVec.setWidth_eq]
    cases s.writeByte a b <;> rfl
  obtain ⟨m', hm'⟩ := writeMem_present b.toNat hp
  refine ⟨m', by rw [e, hm'], stored_writeMem hm (by omega) hm', ?_⟩
  obtain ⟨m, e', hh⟩ := writeMem_frame hm'
  have : m' = m := congrArg State.mem e'
  subst this
  exact hh hm

/-- An available TSS: present, and type 9 or 1 of a system segment (42 R172). -/
theorem accAvailableTss_iff (a : Byte) :
    accAvailableTss a = true ↔ a.getLsbD 7 = true ∧ (a.extractLsb' 0 5 = 9#5 ∨ a.extractLsb' 0 5 = 1#5) := by
  have h : ∀ a : BitVec 8, accAvailableTss a = (a.getLsbD 7 && (a.extractLsb' 0 5 == 9#5 || a.extractLsb' 0 5 == 1#5)) := by
    decide
  rw [h]
  simp

/-- What noting a load of SS changes. -/
theorem noteSsLoad_sys (sr : SReg) (s : State) :
    (noteSsLoad sr s).sys =
        { s.sys with ssLoaded := s.ssLoaded || decide (sr = .ss), holdOff := s.holdOff || decide (sr = .ss) } ∧
      (noteSsLoad sr s).gpr = s.gpr ∧ (noteSsLoad sr s).mem = s.mem ∧ (noteSsLoad sr s).eflags = s.eflags ∧
      (noteSsLoad sr s).seg = s.seg ∧ ∀ n, (noteSsLoad sr s).nextEip n = s.nextEip n := by
  unfold noteSsLoad
  by_cases h : sr = .ss
  · rw [if_pos h]
    refine ⟨by simp [h, State.sys], rfl, rfl, rfl, rfl, fun _ => rfl⟩
  · rw [if_neg h]
    simp [h, State.sys]

/-- A load of a segment register other than CS does not change where the next instruction is. -/
theorem nextEip_setSeg (s : State) {sr : SReg} (v : SegReg) (h : sr ≠ .cs) (n : Nat) : (s.setSeg sr v).nextEip n = s.nextEip n := by
  have e : (s.seg.set sr v).cs = s.seg.cs := by cases sr <;> first | rfl | exact absurd rfl h
  have c : (s.setSeg sr v).code32 = s.code32 := by simp only [State.code32, State.pe, setSeg_cr0, setSeg_seg, e]
  simp only [State.nextEip, c, setSeg_eip]

end Sys2Proof.Machine
end

