-- ==== Sys2Proof/Laws/Flags.lean ====
section
/-! SUPPORT. Operand sizes, the flags that a result sets, and the values that shifts and increments give. -/

namespace Sys2Proof.Machine

open Sys2Proof

theorem bits_div (sz : Size) : sz.bits / 8 = sz.bytes := by cases sz <;> rfl

theorem bits_cases (sz : Size) : sz.bits = 16 ∨ sz.bits = 32 := by cases sz <;> simp [Size.bits]

theorem bytes_cases (sz : Size) : sz.bytes = 2 ∨ sz.bytes = 4 := by cases sz <;> simp [Size.bytes]

/-- PF counts the 1 bits among the low eight (R209). -/
theorem parity_eq {w : Nat} (r : BitVec w) : parityEven r = decide (((List.range 8).countP fun k => r.getLsbD k) % 2 = 0) := by
  unfold parityEven onesCount
  rw [List.countP_eq_length_filter]
  have : ((List.range 8).filter fun i => (r.setWidth 8).getLsbD i) = (List.range 8).filter fun k => r.getLsbD k := by
    apply List.filter_congr
    intro k hk
    simp at hk
    simp [hk]
  rw [this]
  rfl

/-- SZP gives the result's flags (R209). -/
theorem szp_result {w : Nat} (r : BitVec w) (f : Eflags) : ResultFlags r (szp r f) := by
  refine ⟨?_, ?_, parity_eq r⟩
  · simp only [szp]
    rw [Bool.eq_iff_iff]; simp
    exact ⟨fun h => by simp [h], fun h => BitVec.eq_of_toNat_eq (by simpa using h)⟩
  · simp [szp, BitVec.msb, BitVec.getMsbD]
    intro h
    by_cases hw : 0 < w
    · exact hw
    · exfalso; have : w = 0 := by omega
      subst this; simp at h

theorem sameControlFlags_szp {w : Nat} (r : BitVec w) (f : Eflags) : SameControlFlags f (szp r f) :=
  ⟨rfl, rfl, rfl, rfl, rfl, rfl, rfl⟩

theorem sameControlFlags_undefined (u : DWord) (f : Eflags) : SameControlFlags f (undefinedFlags u f) :=
  ⟨rfl, rfl, rfl, rfl, rfl, rfl, rfl⟩

/-- The low nibble of a register view. -/
theorem nibble_eq {w : Nat} (x : BitVec w) : x.extractLsb' 0 4 = BitVec.ofNat 4 x.toNat := by
  apply BitVec.eq_of_toNat_eq
  simp

theorem shiftLeft_eq_ofNat {w : Nat} (x : BitVec w) (n : Nat) : x <<< n = BitVec.ofNat w (x.toNat * 2 ^ n) := by
  apply BitVec.eq_of_toNat_eq
  simp [Nat.shiftLeft_eq]

theorem shiftRight_eq_ofNat {w : Nat} (x : BitVec w) (n : Nat) : x >>> n = BitVec.ofNat w (x.toNat / 2 ^ n) := by
  apply BitVec.eq_of_toNat_eq
  simp only [BitVec.toNat_ushiftRight, Nat.shiftRight_eq_div_pow, BitVec.toNat_ofNat]
  exact (Nat.mod_eq_of_lt (lt_of_le_of_lt (Nat.div_le_self _ _) x.isLt)).symm

end Sys2Proof.Machine
end

