-- ==== Sys2Proof/Laws/Jumps.lean ====
section
/-! SUPPORT. What the shared operations of control transfers give: relative targets, far pointers in memory, pushes. -/

namespace Sys2Proof.Machine

open Sys2Proof

theorem wrap16_toNat (v : DWord) : (wrap16 v).toNat = v.toNat % 65536 := by simp [wrap16]; omega

/-- A relative target as a number (R130, R131, R135). -/
theorem relTarget_toNat (h : Hdr) (s : State) (n : Nat) (d : DWord) :
    (relTarget h s n d).toNat = (s.eip.toNat + n + d.toNat) % 2 ^ h.os.bits := by
  unfold relTarget
  cases h.os
  · simp [wrap16_toNat, Size.bits, BitVec.toNat_add]
  · simp [Size.bits, BitVec.toNat_add]

/-- A far pointer read where it can be accessed (R133). -/
theorem readFarPtr_ready {s : State} {h : Hdr} {m : Mem} (hr : AddrReady s (operandAddr s h m) (h.os.bytes + 2)) :
    readFarPtr h m s = .ok (BitVec.ofNat 32 (s.valueAt (addrOf (operandAddr s h m)) h.os.bytes),
      BitVec.ofNat 16 (s.valueAt (addrOf (operandAddr s h m) + BitVec.ofNat 32 h.os.bytes) 2)) := by
  obtain ⟨e, p⟩ := hr
  unfold readFarPtr
  have p1 : Present s (addrOf (operandAddr s h m)) h.os.bytes := by have := Present.sub p 0 h.os.bytes (by omega); simpa using this
  have p2 := Present.sub p h.os.bytes 2 (by omega)
  rw [e, ok_bind, readMem_present (s := s) (n := h.os.bytes) p1, ok_bind, readMem_present (s := s) (n := 2) p2]; rfl

theorem leValue_lt : ∀ l : List Byte, leValue l < 256 ^ l.length
  | [] => by simp [leValue]
  | b :: t => by
    have := leValue_lt t; have := b.isLt
    simp only [leValue, List.length_cons, Nat.pow_succ]; omega

theorem valueAt_lt (s : State) (a : DWord) (n : Nat) : s.valueAt a n < 256 ^ n := by
  have := leValue_lt ((List.range n).map fun k => s.byteAt (a + BitVec.ofNat 32 k)); simpa [State.valueAt] using this

/-- A segment address depends on the segment registers only. -/
theorem linear_congr {s t : State} (h : t.seg = s.seg) (r : SReg) (o : DWord) : t.linear r o = s.linear r o := by
  simp [State.linear, State.segBase, h]

/-- A push onto a stack that can be accessed: SP goes down and the bytes are stored there (R134). -/
theorem push_ready {s : State} (hm : s.mem.wf = true) {n v : Nat} {a : DWord} (hn : n ≤ 4)
   (ha : s.linear .ss ((s.reg 16 .esp - BitVec.ofNat 16 n).setWidth 32) = .ok a) (hp : Present s a n) :
    ∃ m, push n v s = .ok ((s.setReg 16 .esp (s.reg 16 .esp - BitVec.ofNat 16 n)).setMem m) ∧ m.wf = true ∧
      Stored s ((s.setReg 16 .esp (s.reg 16 .esp - BitVec.ofNat 16 n)).setMem m) a n v := by
  obtain ⟨m, e⟩ := writeMem_present (s := s.setReg 16 .esp (s.reg 16 .esp - BitVec.ofNat 16 n)) (a := a) (n := n) v hp
  refine ⟨m, ?_, ?_, ?_⟩
  · unfold push; rw [linear_congr (t := s.setReg 16 .esp (s.reg 16 .esp - BitVec.ofNat 16 n)) (s := s) rfl, ha, ok_bind, e]
  · obtain ⟨m', e', h⟩ := writeMem_frame e
    have : m = m' := congrArg State.mem e'
    subst this; exact h hm
  · exact stored_writeMem (s := s.setReg 16 .esp (s.reg 16 .esp - BitVec.ofNat 16 n)) hm (by omega) e

/-- A byte of RAM after a store. -/
theorem Stored.byte {s t : State} {a : DWord} {n v : Nat} (h : Stored s t a n v) (x : DWord) (hk : kindAt s.memMap x.toNat = .ram) :
  t.byteAt x = if within x a n then storedByte x a v else s.byteAt x := by
  split
  · next c => exact (h x).1 c hk
  · next c => exact (h x).2.2 c

/-- Of two writes to a view the second holds. -/
theorem setReg_twice (w : Nat) (hw : w ≤ 32) (s : State) (r : Reg) (u v : BitVec w) : (s.setReg w r u).setReg w r v = s.setReg w r v := by
  have : mergeLow w (mergeLow w (s.gpr.get r) u) v = mergeLow w (s.gpr.get r) v := by
    apply BitVec.eq_of_getLsbD_eq; intro k hk
    simp only [mergeLow_getLsbD hw]; split <;> rfl
  simp only [State.setReg, Gpr.get_set_same, this]
  cases r <;> rfl

/-- The low bytes of a padded selector are the selector's. -/
theorem pad_byte (p c : Word16) (k : Nat) (hk : k < 2) :
    BitVec.ofNat 8 ((p ++ c : BitVec 32).toNat / 256 ^ k) = BitVec.ofNat 8 (c.toNat / 256 ^ k) := by
  have h1 : (p ++ c : BitVec 32).toNat = p.toNat * 65536 + c.toNat := by
    rw [BitVec.toNat_append, ← Nat.shiftLeft_add_eq_or_of_lt c.isLt, Nat.shiftLeft_eq]
  have := c.isLt
  rw [h1]
  apply BitVec.eq_of_toNat_eq
  interval_cases k <;> simp <;> omega

end Sys2Proof.Machine
end

