-- ==== Sys2Proof/Laws/PerInstr.lean ====
section
/-! SUPPORT. Every instruction is encoded in as many bytes as its length: one lemma for each constructor. -/

namespace Sys2Proof.Laws

open Sys2Proof

@[simp] theorem leBytes_len : ∀ n v : Nat, (leBytes n v).length = n
  | 0, _ => rfl
  | n + 1, v => congrArg (· + 1) (leBytes_len n (v / 256))

@[simp] theorem dispEncode_len {w : Nat} (d : Disp w) : d.encode.length = d.length := by
  cases d with
  | zero => rfl
  | d8 d => rfl
  | full d => exact leBytes_len _ _

@[simp] theorem memEncode_len (reg : BitVec 3) (m : Mem) : (m.encode reg).length = m.length := by
  cases m <;> simp [Mem.encode, Mem.length] <;> omega

@[simp] theorem rmEncode_len (reg : BitVec 3) (rm : RM Reg) : (rm.encode reg).length = rm.length := by
  cases rm with
  | reg r => rfl
  | mem m => exact memEncode_len reg m

@[simp] theorem rmEncode8_len (reg : BitVec 3) (rm : RM Reg8) : (rm.encode8 reg).length = rm.length := by
  cases rm with
  | reg r => rfl
  | mem m => exact memEncode_len reg m

/-- The encoding has as many bytes as the instruction's length says (30_encoding.md R100, R107). -/
def EncodeLength.Statement (i : Instr) : Prop := (encode i).length = i.length

/-- It is enough that the bytes from the opcode on are as many as they should be. -/
theorem encodeLength_of_body {i : Instr} (h : i.encodeBody.length = i.bodyLength) : EncodeLength.Statement i := by
  simp [EncodeLength.Statement, encode, Instr.length, h]

theorem EncodeLength.nop (h : Hdr) : EncodeLength.Statement (.nop h) :=
  encodeLength_of_body (by simp [Instr.encodeBody, Instr.bodyLength])

theorem EncodeLength.movR8Imm8 (h : Hdr) (r : Reg8) (imm : BitVec 8) : EncodeLength.Statement (.movR8Imm8 h r imm) :=
  encodeLength_of_body (by simp [Instr.encodeBody, Instr.bodyLength])

theorem EncodeLength.movRImm (h : Hdr) (r : Reg) (imm : BitVec 32) : EncodeLength.Statement (.movRImm h r imm) :=
  encodeLength_of_body (by simp [Instr.encodeBody, Instr.bodyLength]; omega)

theorem EncodeLength.movRm8Imm8 (h : Hdr) (rm : RM Reg8) (imm : BitVec 8) : EncodeLength.Statement (.movRm8Imm8 h rm imm) :=
  encodeLength_of_body (by simp [Instr.encodeBody, Instr.bodyLength]; omega)

theorem EncodeLength.movRmImm (h : Hdr) (rm : RM Reg) (imm : BitVec 32) : EncodeLength.Statement (.movRmImm h rm imm) :=
  encodeLength_of_body (by simp [Instr.encodeBody, Instr.bodyLength]; omega)

theorem EncodeLength.movRm8R8 (h : Hdr) (rm : RM Reg8) (r : Reg8) : EncodeLength.Statement (.movRm8R8 h rm r) :=
  encodeLength_of_body (by simp [Instr.encodeBody, Instr.bodyLength]; omega)

theorem EncodeLength.movRmR (h : Hdr) (rm : RM Reg) (r : Reg) : EncodeLength.Statement (.movRmR h rm r) :=
  encodeLength_of_body (by simp [Instr.encodeBody, Instr.bodyLength]; omega)

theorem EncodeLength.movR8Rm8 (h : Hdr) (r : Reg8) (rm : RM Reg8) : EncodeLength.Statement (.movR8Rm8 h r rm) :=
  encodeLength_of_body (by simp [Instr.encodeBody, Instr.bodyLength]; omega)

theorem EncodeLength.movRRm (h : Hdr) (r : Reg) (rm : RM Reg) : EncodeLength.Statement (.movRRm h r rm) :=
  encodeLength_of_body (by simp [Instr.encodeBody, Instr.bodyLength]; omega)

theorem EncodeLength.movAlMoffs (h : Hdr) (off : BitVec 32) : EncodeLength.Statement (.movAlMoffs h off) :=
  encodeLength_of_body (by simp [Instr.encodeBody, Instr.bodyLength]; omega)

theorem EncodeLength.movAxMoffs (h : Hdr) (off : BitVec 32) : EncodeLength.Statement (.movAxMoffs h off) :=
  encodeLength_of_body (by simp [Instr.encodeBody, Instr.bodyLength]; omega)

theorem EncodeLength.movMoffsAl (h : Hdr) (off : BitVec 32) : EncodeLength.Statement (.movMoffsAl h off) :=
  encodeLength_of_body (by simp [Instr.encodeBody, Instr.bodyLength]; omega)

theorem EncodeLength.movMoffsAx (h : Hdr) (off : BitVec 32) : EncodeLength.Statement (.movMoffsAx h off) :=
  encodeLength_of_body (by simp [Instr.encodeBody, Instr.bodyLength]; omega)

theorem EncodeLength.movSregRm (h : Hdr) (sr : SReg) (rm : RM Reg) : EncodeLength.Statement (.movSregRm h sr rm) :=
  encodeLength_of_body (by simp [Instr.encodeBody, Instr.bodyLength]; omega)

theorem EncodeLength.xorAlImm8 (h : Hdr) (imm : BitVec 8) : EncodeLength.Statement (.xorAlImm8 h imm) :=
  encodeLength_of_body (by simp [Instr.encodeBody, Instr.bodyLength])

theorem EncodeLength.xorRmR (h : Hdr) (rm : RM Reg) (r : Reg) : EncodeLength.Statement (.xorRmR h rm r) :=
  encodeLength_of_body (by simp [Instr.encodeBody, Instr.bodyLength]; omega)

theorem EncodeLength.xorRRm (h : Hdr) (r : Reg) (rm : RM Reg) : EncodeLength.Statement (.xorRRm h r rm) :=
  encodeLength_of_body (by simp [Instr.encodeBody, Instr.bodyLength]; omega)

theorem EncodeLength.incR (h : Hdr) (r : Reg) : EncodeLength.Statement (.incR h r) :=
  encodeLength_of_body (by simp [Instr.encodeBody, Instr.bodyLength])

theorem EncodeLength.decR (h : Hdr) (r : Reg) : EncodeLength.Statement (.decR h r) :=
  encodeLength_of_body (by simp [Instr.encodeBody, Instr.bodyLength])

theorem EncodeLength.shlRmImm8 (h : Hdr) (rm : RM Reg) (imm : BitVec 8) : EncodeLength.Statement (.shlRmImm8 h rm imm) :=
  encodeLength_of_body (by simp [Instr.encodeBody, Instr.bodyLength]; omega)

theorem EncodeLength.shrRm1 (h : Hdr) (rm : RM Reg) : EncodeLength.Statement (.shrRm1 h rm) :=
  encodeLength_of_body (by simp [Instr.encodeBody, Instr.bodyLength]; omega)

theorem EncodeLength.shrRmImm8 (h : Hdr) (rm : RM Reg) (imm : BitVec 8) : EncodeLength.Statement (.shrRmImm8 h rm imm) :=
  encodeLength_of_body (by simp [Instr.encodeBody, Instr.bodyLength]; omega)

theorem EncodeLength.outImm8Al (h : Hdr) (port : BitVec 8) : EncodeLength.Statement (.outImm8Al h port) :=
  encodeLength_of_body (by simp [Instr.encodeBody, Instr.bodyLength])

theorem EncodeLength.cli (h : Hdr) : EncodeLength.Statement (.cli h) :=
  encodeLength_of_body (by simp [Instr.encodeBody, Instr.bodyLength])

theorem EncodeLength.cld (h : Hdr) : EncodeLength.Statement (.cld h) :=
  encodeLength_of_body (by simp [Instr.encodeBody, Instr.bodyLength])

theorem EncodeLength.movsB (h : Hdr) : EncodeLength.Statement (.movsB h) :=
  encodeLength_of_body (by simp [Instr.encodeBody, Instr.bodyLength])

theorem EncodeLength.movsW (h : Hdr) : EncodeLength.Statement (.movsW h) :=
  encodeLength_of_body (by simp [Instr.encodeBody, Instr.bodyLength])

theorem EncodeLength.repMovs (h : Hdr) (wide : Bool) : EncodeLength.Statement (.repMovs h wide) :=
  encodeLength_of_body (by simp [Instr.encodeBody, Instr.bodyLength])

theorem EncodeLength.jmpRel8 (h : Hdr) (rel : BitVec 8) : EncodeLength.Statement (.jmpRel8 h rel) :=
  encodeLength_of_body (by simp [Instr.encodeBody, Instr.bodyLength])

theorem EncodeLength.jmpRel (h : Hdr) (rel : BitVec 32) : EncodeLength.Statement (.jmpRel h rel) :=
  encodeLength_of_body (by simp [Instr.encodeBody, Instr.bodyLength]; omega)

theorem EncodeLength.jmpFar (h : Hdr) (off : BitVec 32) (sel : BitVec 16) : EncodeLength.Statement (.jmpFar h off sel) :=
  encodeLength_of_body (by simp [Instr.encodeBody, Instr.bodyLength]; omega)

theorem EncodeLength.jmpFarMem (h : Hdr) (m : Mem) : EncodeLength.Statement (.jmpFarMem h m) :=
  encodeLength_of_body (by simp [Instr.encodeBody, Instr.bodyLength]; omega)

theorem EncodeLength.callFar (h : Hdr) (off : BitVec 32) (sel : BitVec 16) : EncodeLength.Statement (.callFar h off sel) :=
  encodeLength_of_body (by simp [Instr.encodeBody, Instr.bodyLength]; omega)

theorem EncodeLength.callFarMem (h : Hdr) (m : Mem) : EncodeLength.Statement (.callFarMem h m) :=
  encodeLength_of_body (by simp [Instr.encodeBody, Instr.bodyLength]; omega)

theorem EncodeLength.jnzRel8 (h : Hdr) (rel : BitVec 8) : EncodeLength.Statement (.jnzRel8 h rel) :=
  encodeLength_of_body (by simp [Instr.encodeBody, Instr.bodyLength])

theorem EncodeLength.hlt (h : Hdr) : EncodeLength.Statement (.hlt h) :=
  encodeLength_of_body (by simp [Instr.encodeBody, Instr.bodyLength])

theorem EncodeLength.movRCr0 (h : Hdr) (r : Reg) : EncodeLength.Statement (.movRCr0 h r) :=
  encodeLength_of_body (by simp [Instr.encodeBody, Instr.bodyLength])

theorem EncodeLength.movRCr3 (h : Hdr) (r : Reg) : EncodeLength.Statement (.movRCr3 h r) :=
  encodeLength_of_body (by simp [Instr.encodeBody, Instr.bodyLength])

theorem EncodeLength.movCr0R (h : Hdr) (r : Reg) : EncodeLength.Statement (.movCr0R h r) :=
  encodeLength_of_body (by simp [Instr.encodeBody, Instr.bodyLength])

theorem EncodeLength.movCr3R (h : Hdr) (r : Reg) : EncodeLength.Statement (.movCr3R h r) :=
  encodeLength_of_body (by simp [Instr.encodeBody, Instr.bodyLength])

theorem EncodeLength.movRTr6 (h : Hdr) (r : Reg) : EncodeLength.Statement (.movRTr6 h r) :=
  encodeLength_of_body (by simp [Instr.encodeBody, Instr.bodyLength])

theorem EncodeLength.movRTr7 (h : Hdr) (r : Reg) : EncodeLength.Statement (.movRTr7 h r) :=
  encodeLength_of_body (by simp [Instr.encodeBody, Instr.bodyLength])

theorem EncodeLength.movTr6R (h : Hdr) (r : Reg) : EncodeLength.Statement (.movTr6R h r) :=
  encodeLength_of_body (by simp [Instr.encodeBody, Instr.bodyLength])

theorem EncodeLength.movTr7R (h : Hdr) (r : Reg) : EncodeLength.Statement (.movTr7R h r) :=
  encodeLength_of_body (by simp [Instr.encodeBody, Instr.bodyLength])

theorem EncodeLength.lgdt (h : Hdr) (m : Mem) : EncodeLength.Statement (.lgdt h m) :=
  encodeLength_of_body (by simp [Instr.encodeBody, Instr.bodyLength]; omega)

theorem EncodeLength.lidt (h : Hdr) (m : Mem) : EncodeLength.Statement (.lidt h m) :=
  encodeLength_of_body (by simp [Instr.encodeBody, Instr.bodyLength]; omega)

theorem EncodeLength.ltr (h : Hdr) (rm : RM Reg) : EncodeLength.Statement (.ltr h rm) :=
  encodeLength_of_body (by simp [Instr.encodeBody, Instr.bodyLength]; omega)

theorem EncodeLength.lar (h : Hdr) (r : Reg) (rm : RM Reg) : EncodeLength.Statement (.lar h r rm) :=
  encodeLength_of_body (by simp [Instr.encodeBody, Instr.bodyLength]; omega)

end Sys2Proof.Laws
end

