-- ==== Sys2Proof/Laws/Reset.lean ====
section
/-! SUPPORT. The fields of CR0 and EDX that the reset function builds. -/

namespace Sys2Proof.Machine

open Sys2Proof

theorem resetCr0_low (a : BitVec 26) (b : Bool) {k : Nat} (hk : k < 5) :
    (0#1 ++ (a ++ (BitVec.ofBool b ++ 0#4)) : BitVec 32).getLsbD k = (decide (k = 4) && b) := by
  simp only [BitVec.getLsbD_append]
  interval_cases k <;> simp

theorem resetCr0_pg (a : BitVec 26) (b : Bool) : (0#1 ++ (a ++ (BitVec.ofBool b ++ 0#4)) : BitVec 32).getLsbD 31 = false := by
  simp only [BitVec.getLsbD_append]
  simp

theorem resetEdx_dh (a : BitVec 16) (b : BitVec 8) : (a ++ (3#8 ++ b) : BitVec 32).extractLsb' 8 8 = 3#8 := by
  apply BitVec.eq_of_getLsbD_eq
  intro k hk
  rw [BitVec.getLsbD_extractLsb']
  simp only [BitVec.getLsbD_append]
  simp [hk]
  intro
  omega

theorem resetEdx_dl (a : BitVec 16) (b : BitVec 8) : (a ++ (3#8 ++ b) : BitVec 32).extractLsb' 0 8 = b := by
  apply BitVec.eq_of_getLsbD_eq
  intro k hk
  rw [BitVec.getLsbD_extractLsb']
  simp only [BitVec.getLsbD_append]
  simp [hk]
  intro
  omega

end Sys2Proof.Machine
end

