-- ==== Sys2Proof/Laws/Strings.lean ====
section
/-! SUPPORT. What one string move gives, and what a row of copies leaves in memory. -/

namespace Sys2Proof.Machine

open Sys2Proof

theorem bits_le (sz : Size) : sz.bits ≤ 32 := by cases sz <;> simp [Size.bits]

theorem leBytes_leValue : ∀ l : List Byte, leBytes l.length (leValue l) = l
  | [] => rfl
  | b :: t => by
    have h : (b.toNat + 256 * leValue t) / 256 = leValue t := by have := b.isLt; omega
    simp only [leValue, List.length_cons, leBytes, h, leBytes_leValue t]
    congr 1
    apply BitVec.eq_of_toNat_eq; simp; omega

theorem writeBytes_as_mem {s : State} {a : DWord} (bs : List Byte) : s.writeBytes a bs = s.writeMem a bs.length (leValue bs) := by
  unfold State.writeMem; rw [leBytes_leValue]

/-- From `s` to `t` (E)SI and (E)DI have moved by one element of `n` bytes and no other register has changed (R207). -/
def Moved (w n : Nat) (s t : State) : Prop :=
  (∀ q, q = .esi ∨ q = .edi → t.reg w q = s.reg w q + stringDelta w s n ∧
      ∀ k, w ≤ k → (t.gpr.get q).getLsbD k = (s.gpr.get q).getLsbD k) ∧
    (∀ q, q ≠ .esi → q ≠ .edi → t.gpr.get q = s.gpr.get q)

theorem stringAdvance_moved {w n : Nat} (hw : w ≤ 32) (s : State) : Moved w n s (stringAdvance w n s) := by
  unfold stringAdvance
  have a := regWritten_setReg hw s .esi (s.reg w .esi + stringDelta w s n)
  have b := regWritten_setReg hw (s.setReg w .esi (s.reg w .esi + stringDelta w s n)) .edi (s.reg w .edi + stringDelta w s n)
  refine ⟨?_, ?_⟩
  · rintro q (rfl | rfl)
    · refine ⟨?_, fun k hk => ?_⟩
      · rw [reg_setReg_other _ _ (by decide)]; exact a.1
      · rw [b.2.2 _ (by decide)]; exact a.2.1 k hk
    · refine ⟨b.1, fun k hk => ?_⟩
      rw [b.2.1 k hk, a.2.2 _ (by decide)]
  · intro q h1 h2; rw [b.2.2 q h2, a.2.2 q h1]

/-- One move between strings that can be accessed: the element is stored and the registers have moved (R207). -/
theorem movsOne_ready {s : State} {h : Hdr} {n : Nat} (hn : n ≤ 4) (hm : s.mem.wf = true)
   (r1 : AddrReady s (s.linear (hdrSegment h .ds) (stringOffset h.as.bits s .esi)) n)
   (r2 : AddrReady s (s.linear .es (stringOffset h.as.bits s .edi)) n) :
   ∃ m t, movsOne h n s = .ok t ∧ t = stringAdvance h.as.bits n (s.setMem m) ∧ Moved h.as.bits n s t ∧ m.wf = true ∧
     Stored s t (addrOf (s.linear .es (stringOffset h.as.bits s .edi))) n
        (s.valueAt (addrOf (s.linear (hdrSegment h .ds) (stringOffset h.as.bits s .esi))) n) := by
  obtain ⟨e1, p1⟩ := r1
  obtain ⟨e2, p2⟩ := r2
  have hl : ((List.range n).map fun k => s.byteAt (addrOf (s.linear (hdrSegment h .ds) (stringOffset h.as.bits s .esi)) + BitVec.ofNat 32 k)).length = n := by simp
  have hv := writeMem_present (s.valueAt (addrOf (s.linear (hdrSegment h .ds) (stringOffset h.as.bits s .esi))) n) p2
  obtain ⟨m, hm'⟩ := hv
  refine ⟨m, stringAdvance h.as.bits n (s.setMem m), ?_, rfl, ?_, ?_, ?_⟩
  · unfold movsOne
    rw [e1, ok_bind, readBytes_present p1, ok_bind, e2, ok_bind, writeBytes_as_mem, hl]
    have : leValue ((List.range n).map fun k => s.byteAt (addrOf (s.linear (hdrSegment h .ds) (stringOffset h.as.bits s .esi)) + BitVec.ofNat 32 k)) = s.valueAt (addrOf (s.linear (hdrSegment h .ds) (stringOffset h.as.bits s .esi))) n := rfl
    rw [this, hm', ok_map]
  · exact stringAdvance_moved (bits_le _) (s.setMem m)
  · obtain ⟨m', e', hh⟩ := writeMem_frame hm'
    have : m = m' := congrArg State.mem e'
    subst this; exact hh hm
  · exact fun x => stored_writeMem hm (by omega) hm' x

/-- An offset in a usable segment. -/
theorem linear_ready {s : State} {r : SReg} {o : DWord} {n : Nat} (hu : (s.seg.get r).usable = true)
    (hp : Present s ((s.seg.get r).base + o) n) :
  AddrReady s (s.linear r o) n ∧ addrOf (s.linear r o) = (s.seg.get r).base + o := by
  have e : s.linear r o = .ok ((s.seg.get r).base + o) := by simp [State.linear, State.segBase, hu]
  rw [e]
  exact ⟨⟨rfl, hp⟩, rfl⟩

/-! ## Rows of copies -/

/-- One more execution is the execution of the state so far. -/
theorem execTimes_add (i : Instr) : ∀ (k : Nat) (s t : State), execTimes i k s = .next t → execTimes i (k + 1) s = exec i t
  | 0, s, t, h => by
    injection h with h; subst h
    simp only [execTimes]; split <;> simp_all
  | k + 1, s, t, h => by
    rw [execTimes] at h ⊢
    split at h
    · next u hu => rw [execTimes_add i k u t h]
    · simp at h
    · simp at h

/-- A byte that no destination holds is as before. -/
theorem copied_outside (m : List Region) (src dst : Nat → DWord) (n : Nat) (b : DWord → Byte) : ∀ (k : Nat) (x : DWord),
    (∀ j, j < k → ¬ within x (dst j) n) → copied m src dst n b k x = b x
  | 0, _, _ => rfl
  | k + 1, x, h => by
    rw [copied, if_neg (fun c => h k (by omega) c.1)]
    exact copied_outside m src dst n b k x (fun j hj => h j (by omega))

/-- Where no destination overlaps a source or another destination, each is a copy of its source. -/
theorem copied_apart (m : List Region) (src dst : Nat → DWord) (n : Nat) (b : DWord → Byte) : ∀ (k : Nat),
    (∀ i j x, i < k → j < k → within x (dst i) n →
          kindAt m x.toNat = .ram ∧ ¬ within x (src j) n ∧ (i ≠ j → ¬ within x (dst j) n)) →
    ∀ j x, j < k → within x (dst j) n → copied m src dst n b k x = b (src j + (x - dst j))
  | 0, _, j, _, hj, _ => absurd hj (by omega)
  | k + 1, h, j, x, hj, hx => by
    rw [copied]
    by_cases e : j = k
    · subst e
      rw [if_pos ⟨hx, (h j j x (by omega) (by omega) hx).1⟩]
      refine copied_outside _ _ _ _ _ _ _ fun i hi hc => ?_
      refine (h i j _ (by omega) (by omega) hc).2.1 ?_
      unfold within
      rw [show src j + (x - dst j) - src j = x - dst j by bv_omega]
      exact hx
    · rw [if_neg (fun c => (h j k x hj (by omega) hx).2.2 e c.1)]
      exact copied_apart m src dst n b k (fun i j x hi hj => h i j x (by omega) (by omega)) j x (by omega) hx

/-- A number read from `a` and stored at `b` puts each byte where it belongs. -/
theorem storedByte_valueAt {s : State} {x a b : DWord} {n : Nat} (hx : within x b n) :
    storedByte x b (s.valueAt a n) = s.byteAt (a + (x - b)) := by
  unfold storedByte
  have hk : (x - b).toNat < n := hx
  have := leBytes_getD (v := s.valueAt a n) hk
  rw [← this]
  have hl := leBytes_leValue ((List.range n).map fun k => s.byteAt (a + BitVec.ofNat 32 k))
  simp only [List.length_map, List.length_range] at hl
  unfold State.valueAt
  rw [hl, List.getD_eq_getElem?_getD, List.getElem?_map, List.getElem?_range hk]
  simp only [Option.map_some, Option.getD_some]
  congr 2
  exact BitVec.eq_of_toNat_eq (by rw [BitVec.toNat_ofNat, Nat.mod_eq_of_lt (BitVec.isLt _)])

end Sys2Proof.Machine
end

