-- ==== Sys2Proof/Laws/Tlb.lean ====
section
/-! SUPPORT. The TLB as a table: what storing and mapping entries give, when an entry matches, and that TR6 and TR7 keep their fields. -/

namespace Sys2Proof.Machine

open Sys2Proof

/-- A read of a special register where it is allowed. -/
theorem readSpecial_ready {s : State} (hp : Privileged s) (r : Reg) (v : DWord) (n : Nat) :
    readSpecial s r v n = .ok ((s.setReg 32 r v).endSpecial n) := by
  simp only [readSpecial, requireCpl0_of_privileged hp, ok_map]

theorem entry_mapEntries (f : TlbEntry → TlbEntry) (t : Tlb) (b : BitVec 2) (i : BitVec 3) :
    Tlb.entry (Tlb.mapEntries f t) b i = f (Tlb.entry t b i) := by
  simp only [Tlb.entry, Tlb.mapEntries, Quad.get, Quad.map, Oct.get, Oct.map]
  split <;> split <;> rfl

theorem bitVec3_cases : ∀ i : BitVec 3, i = 0 ∨ i = 1 ∨ i = 2 ∨ i = 3 ∨ i = 4 ∨ i = 5 ∨ i = 6 ∨ i = 7 := by decide

theorem bitVec2_cases : ∀ b : BitVec 2, b = 0 ∨ b = 1 ∨ b = 2 ∨ b = 3 := by decide

theorem oct_get_set {α : Type} (o : Oct α) (i j : BitVec 3) (x : α) : (o.set i x).get j = if j = i then x else o.get j := by
  rcases bitVec3_cases i with rfl | rfl | rfl | rfl | rfl | rfl | rfl | rfl <;>
    rcases bitVec3_cases j with rfl | rfl | rfl | rfl | rfl | rfl | rfl | rfl <;> rfl

theorem quad_get_set {α : Type} (q : Quad α) (b c : BitVec 2) (x : α) : (q.set b x).get c = if c = b then x else q.get c := by
  rcases bitVec2_cases b with rfl | rfl | rfl | rfl <;> rcases bitVec2_cases c with rfl | rfl | rfl | rfl <;> rfl

/-- An entry after one has been stored. -/
theorem entry_put (t : Tlb) (b c : BitVec 2) (i j : BitVec 3) (e : TlbEntry) :
    Tlb.entry (Tlb.put t b i e) c j = if c = b ∧ j = i then e else Tlb.entry t c j := by
  unfold Tlb.put Tlb.entry
  rw [quad_get_set]
  by_cases hc : c = b
  · subst hc
    simp [oct_get_set]
  · simp [hc]

theorem places_mem (b : BitVec 2) (i : BitVec 3) : (b, i) ∈ Tlb.places := by
  revert b i; decide

/-- Well-formed pairs give their values (R236). -/
theorem pairs_ok {l : TrLayout} {x : DWord} (hp : PairsFormed l x) :
    pairValues (TR6.ofWord l x) = .ok (x.getLsbD l.d, x.getLsbD l.u, x.getLsbD l.w) := by
  obtain ⟨h1, h2, h3⟩ := hp
  simp only [pairValues, TR6.ofWord, pairValue, h1, h2, h3]
  simp

/-- An entry matches a command when the tags are equal (R235). -/
theorem matches_iff (l : TrLayout) (e : TlbEntry) (x : DWord) :
    e.matches (TR6.ofWord l x) (x.getLsbD l.d, x.getLsbD l.u, x.getLsbD l.w) = true ↔ TagIs l e x := by
  simp [TlbEntry.matches, TR6.ofWord, TagIs, and_assoc]

theorem places_nodup : Tlb.places.Nodup := by decide

/-- A list without repeats in which one element alone passes. -/
theorem filter_unique {α : Type} [DecidableEq α] {p : α → Bool} :
    ∀ {l : List α} {a : α}, l.Nodup → a ∈ l → p a = true → (∀ b ∈ l, p b = true → b = a) → l.filter p = [a]
  | [], a, _, h, _, _ => absurd h (by simp)
  | c :: l, a, hn, h, hp, hu => by
    rw [List.nodup_cons] at hn
    by_cases hc : p c = true
    · have := hu c (by simp) hc; subst this
      rw [List.filter_cons_of_pos hc]
      congr 1
      rw [List.filter_eq_nil_iff]
      intro b hb hpb
      exact hn.1 (hu b (by simp [hb]) hpb ▸ hb)
    · rw [List.filter_cons_of_neg hc]
      refine filter_unique hn.2 ?_ hp (fun b hb => hu b (by simp [hb]))
      rcases List.mem_cons.mp h with rfl | h
      · exact absurd hp hc
      · exact h

/-- When the mark of duplicate tags covers no command with this V (R241; log 24). -/
theorem covers_false_iff (m : TlbMark) (v : Bool) : m.covers v = false ↔ m = .clean ∨ m = .undefinedV0 ∧ v = true := by
  cases m <;> cases v <;> simp [TlbMark.covers]

/-- A lookup that reaches its comparison (R235, R240). -/
theorem lookup_ready {l : TrLayout} {s : State} {x : DWord} (hc : s.tlbMark.covers (x.getLsbD l.v) = false) (hpf : PairsFormed l x)
    (hv : x.getLsbD l.v = true ∨ ∀ b i, (Tlb.entry s.tlb b i).written = true) :
    tlbLookup (TR6.ofWord l x) s =
      tlbReport s (tlbMatches s.tlb (TR6.ofWord l x) (x.getLsbD l.d, x.getLsbD l.u, x.getLsbD l.w)) := by
  unfold tlbLookup
  have a1 : s.tlbMark.covers (TR6.ofWord l x).v = false := hc
  have a2 : (!(TR6.ofWord l x).v && Tlb.hasUninitialised s.tlb) = false := by
    rcases hv with hv | hv
    · have : (TR6.ofWord l x).v = true := hv
      simp [this]
    · have : Tlb.hasUninitialised s.tlb = false := by
        unfold Tlb.hasUninitialised; rw [List.any_eq_false]; intro p _; simp [hv]
      simp [this]
  rw [a1, a2, pairs_ok hpf]; rfl

/-! ## Layouts -/

/-- A field written is read back; a field that lies elsewhere is as before. -/
theorem mergeBits_getLsbD_bit (i k : Nat) (hi : i < 32) (x : DWord) (b : Bool) :
    (mergeBits i x (BitVec.ofBool b)).getLsbD k = if k = i then b else x.getLsbD k := by
  rw [mergeBits_getLsbD i (by omega)]
  by_cases h : k = i
  · subst h; simp
  · rw [if_neg (by omega), if_neg h]

theorem mergeBits_getLsbD_apart {n : Nat} (i k : Nat) (hi : i + n ≤ 32) (x : DWord) (v : BitVec n) (h : k < i ∨ i + n ≤ k) :
    (mergeBits i x v).getLsbD k = x.getLsbD k := by
  rw [mergeBits_getLsbD i hi, if_neg (by omega)]

theorem mergeBits_field {n : Nat} (i : Nat) (hi : i + n ≤ 32) (x : DWord) (v : BitVec n) : (mergeBits i x v).extractLsb' i n = v := by
  apply BitVec.eq_of_getLsbD_eq; intro k hk
  rw [BitVec.getLsbD_extractLsb', mergeBits_getLsbD i hi, if_pos (by omega)]
  simp [hk]

theorem mergeBits_field_apart {n m : Nat} (i j : Nat) (hi : i + n ≤ 32) (x : DWord) (v : BitVec n) (h : j + m ≤ i ∨ i + n ≤ j) :
    (mergeBits i x v).extractLsb' j m = x.extractLsb' j m := by
  apply BitVec.eq_of_getLsbD_eq; intro k hk
  rw [BitVec.getLsbD_extractLsb', BitVec.getLsbD_extractLsb', mergeBits_getLsbD i hi, if_neg (by omega)]

/-- The named fields of TR6 survive, whatever the reserved bits hold (R28; 92_eei_decisions.md D15). -/
theorem tr6_bits {l : TrLayout} (hl : l.wf = true) (t : TR6) (f : DWord) : TR6.ofWord l (TR6.toWord l t f) = t := by
  obtain ⟨lin, v, d, dn, u, un, w, wn, c⟩ := t
  have hlin := l.lin.isLt
  simp only [TrLayout.wf, Bool.and_eq_true, decide_eq_true_eq, List.all_cons, List.all_nil, List.nodup_cons, List.mem_cons,
    List.not_mem_nil, not_or, or_false, and_true, Fin.ext_iff] at hl
  obtain ⟨⟨⟨⟨⟨⟨_, _, _, _, _, _, _⟩, ⟨_, _, _, _, _, _⟩, ⟨_, _, _, _, _⟩, ⟨_, _, _, _⟩, ⟨_, _, _⟩, ⟨_, _⟩, _, -⟩,
    _, _, _, _, _, _, _, _⟩, -⟩, -⟩, -⟩ := hl
  simp only [TR6.toWord, TR6.ofWord, TR6.mk.injEq]
  refine ⟨mergeBits_field _ (by clear * - hlin; omega) _ _, ?_, ?_, ?_, ?_, ?_, ?_, ?_, ?_⟩ <;>
    rw [mergeBits_getLsbD_apart _ _ (by clear * - hlin; omega) _ _ (by assumption)] <;>
    simp only [mergeBits_getLsbD_bit _ _ (Fin.isLt _), if_true] <;>
    repeat rw [if_neg (by first | assumption | exact fun e => absurd e.symm (by assumption))]

/-- The named fields of TR7 survive, whatever the reserved bits hold (R29; D15). -/
theorem tr7_bits {l : TrLayout} (hl : l.wf = true) (t : TR7) (f : DWord) : TR7.ofWord l (TR7.toWord l t f) = t := by
  obtain ⟨phys, ht, rep⟩ := t
  have hp := l.phys.isLt
  have hr := l.rep.isLt
  have hh := l.ht.isLt
  simp only [TrLayout.wf, Bool.and_eq_true, decide_eq_true_eq] at hl
  obtain ⟨⟨⟨-, a⟩, b⟩, c⟩ := hl
  simp only [TR7.toWord, TR7.ofWord, TR7.mk.injEq]
  refine ⟨mergeBits_field _ (by omega) _ _, ?_, ?_⟩
  · rw [mergeBits_getLsbD_apart _ _ (by omega) _ _ b, mergeBits_getLsbD_bit _ _ hh, if_pos rfl]
  · rw [mergeBits_field_apart _ _ (by omega) _ _ (by omega), mergeBits_field_apart _ _ (by omega) _ _ (by omega),
      mergeBits_field _ (by omega)]

/-- Every function from page numbers to indexes is the TLB_INDEX of some table (R244; 92_eei_decisions.md D12). -/
theorem tlbIndex_complete (f : BitVec 20 → BitVec 3) : ∃ t : TlbIndexTable, ∀ p, tlbIndex t p = f p := by
  refine ⟨(List.finRange (2 ^ 20)).map fun k => (BitVec.ofFin k, f (BitVec.ofFin k)), fun p => ?_⟩
  have h : ∀ l : List (Fin (2 ^ 20)), p.toFin ∈ l → (l.map fun k => (BitVec.ofFin k, f (BitVec.ofFin k))).lookup p = some (f p) := by
    intro l
    induction l with
    | nil => intro h; exact absurd h (by simp)
    | cons k l ih =>
      intro h
      by_cases hk : p = BitVec.ofFin k
      · subst hk; simp
      · have : p.toFin ∈ l := by
          rcases List.mem_cons.mp h with e | e
          · exact absurd (by rw [← e]) hk
          · exact e
        simp only [List.map_cons, List.lookup, beq_eq_false_iff_ne.mpr hk]
        exact ih this
  simp only [tlbIndex, h _ (List.mem_finRange _), Option.getD_some]

end Sys2Proof.Machine
end

