-- ==== Sys2Proof/Tests/Slice0.lean ====
section
/-! SUPPORT. Our own tests: terms that each check of WellFormed refuses, one word of every constructor written out from the encodings of
spec/30_encoding.md, single steps with the expected values of spec/95_test_vectors.md, and witnesses that the hypotheses of the statements
can be met. -/

namespace Sys2Proof.Tests

open Sys2Proof Sys2Proof.Machine

/-- No prefix, 16-bit operands and addresses. -/
def h16 : Hdr := ⟨[], .s16, .s16⟩
/-- Prefix 66H in 16-bit code. -/
def h66 : Hdr := ⟨[.opSize], .s32, .s16⟩
/-- Prefix 67H in 16-bit code. -/
def h67 : Hdr := ⟨[.addrSize], .s16, .s32⟩
/-- A CS override in 16-bit code. -/
def hCs : Hdr := ⟨[.seg .cs], .s16, .s16⟩
/-- REP in 16-bit code. -/
def hRep : Hdr := ⟨[.rep], .s16, .s16⟩

/-! ## WellFormed refuses (R101 to R106) -/

theorem test_wf_accepts : Instr.wf false (.movRImm h66 .edi 0x00001000) = true := by decide
theorem test_wf_default32 : Instr.wf true (.movRImm ⟨[], .s32, .s32⟩ .edi 0x12345678) = true := by decide
theorem test_wf_imm_too_wide : Instr.wf false (.movRImm h16 .edi 0x00010000) = false := by decide
theorem test_wf_os_wrong : Instr.wf false (.nop ⟨[], .s32, .s16⟩) = false := by decide
theorem test_wf_as_wrong : Instr.wf false (.nop ⟨[], .s16, .s32⟩) = false := by decide
theorem test_wf_rep_before_nop : Instr.wf false (.nop hRep) = false := by decide
theorem test_wf_rep_missing : Instr.wf false (.repMovs h16 false) = false := by decide
theorem test_wf_direct16_under_32 : Instr.wf false (.jmpFarMem h67 (.direct16 0)) = false := by decide
theorem test_wf_based16_under_32 : Instr.wf false (.jmpFarMem h67 (.based16 .bx .zero)) = false := by decide
theorem test_wf_bp_without_displacement : Instr.wf false (.jmpFarMem h16 (.based16 .bp .zero)) = false := by decide
theorem test_wf_direct32_under_16 : Instr.wf false (.jmpFarMem h16 (.direct32 0)) = false := by decide
theorem test_wf_based32_under_16 : Instr.wf false (.jmpFarMem h16 (.based32 .eax .zero)) = false := by decide
theorem test_wf_esp_base : Instr.wf false (.jmpFarMem h67 (.based32 .esp .zero)) = false := by decide
theorem test_wf_ebp_without_displacement : Instr.wf false (.jmpFarMem h67 (.based32 .ebp .zero)) = false := by decide
theorem test_wf_sib_index_esp : Instr.wf false (.jmpFarMem h67 (.sib 0 (some .esp) .eax .zero)) = false := by decide
theorem test_wf_sib_base_ebp : Instr.wf false (.jmpFarMem h67 (.sib 0 none .ebp .zero)) = false := by decide
theorem test_wf_sib_under_16 : Instr.wf false (.jmpFarMem h16 (.sib 0 none .eax .zero)) = false := by decide
theorem test_wf_sibNoBase_index_esp : Instr.wf false (.jmpFarMem h67 (.sibNoBase 0 (some .esp) 0)) = false := by decide
theorem test_wf_sixteen_bytes : Instr.wf false (.nop ⟨List.replicate 15 (.seg .ds), .s16, .s16⟩) = false := by decide

/-! ## One word of every constructor (R103 to R107; the words of spec/95_test_vectors.md where it has one) -/

/-- What the decoder reads in 16-bit code. -/
def read (bs : List Byte) : Option Instr :=
  match decode false bs with
  | .ok i => some i
  | .error _ => none

theorem test_decode_nop : read [0x90] = some (.nop h16) := by decide
theorem test_decode_movR8Imm8 : read [0xB0, 0x01] = some (.movR8Imm8 h16 .al 1) := by decide
theorem test_decode_movRImm : read [0xB9, 0xFF, 0x3F] = some (.movRImm h16 .ecx 0x3FFF) := by decide
theorem test_decode_movRm8Imm8 : read [0xC6, 0x47, 0x05, 0x92] = some (.movRm8Imm8 h16 (.mem (.based16 .bx (.d8 5))) 0x92) := by
  decide
theorem test_decode_movRmImm : read [0xC7, 0x47, 0x02, 0x00, 0x00] = some (.movRmImm h16 (.mem (.based16 .bx (.d8 2))) 0) := by decide
theorem test_decode_movRm8R8 : read [0x88, 0x77, 0x05] = some (.movRm8R8 h16 (.mem (.based16 .bx (.d8 5))) .dh) := by decide
theorem test_decode_movRmR : read [0x26, 0x89, 0x06, 0x0A, 0x00] =
    some (.movRmR ⟨[.seg .es], .s16, .s16⟩ (.mem (.direct16 0x000A)) .eax) := by decide
theorem test_decode_movR8Rm8 : read [0x8A, 0x67, 0x07] = some (.movR8Rm8 h16 .ah (.mem (.based16 .bx (.d8 7)))) := by decide
theorem test_decode_movRRm : read [0x8B, 0x0F] = some (.movRRm h16 .ecx (.mem (.based16 .bx .zero))) := by decide
theorem test_decode_movAlMoffs : read [0xA0, 0x24, 0x00] = some (.movAlMoffs h16 0x0024) := by decide
theorem test_decode_movAxMoffs : read [0xA1, 0x22, 0x00] = some (.movAxMoffs h16 0x0022) := by decide
theorem test_decode_movMoffsAl : read [0x67, 0xA2, 0x78, 0x56, 0x34, 0x12] = some (.movMoffsAl h67 0x12345678) := by decide
theorem test_decode_movMoffsAx : read [0xA3, 0x04, 0x00] = some (.movMoffsAx h16 0x0004) := by decide
theorem test_decode_movSregRm : read [0x8E, 0xE3] = some (.movSregRm h16 .fs (.reg .ebx)) := by decide
theorem test_decode_xorAlImm8 : read [0x34, 0x80] = some (.xorAlImm8 h16 0x80) := by decide
theorem test_decode_xorRmR : read [0x31, 0xFE] = some (.xorRmR h16 (.reg .esi) .edi) := by decide
theorem test_decode_xorRRm : read [0x33, 0xFE] = some (.xorRRm h16 .edi (.reg .esi)) := by decide
theorem test_decode_incR : read [0x41] = some (.incR h16 .ecx) := by decide
theorem test_decode_decR : read [0x49] = some (.decR h16 .ecx) := by decide
theorem test_decode_shlRmImm8 : read [0x66, 0xC1, 0xE0, 0x10] = some (.shlRmImm8 h66 (.reg .eax) 16) := by decide
theorem test_decode_shrRm1 : read [0xD1, 0xE9] = some (.shrRm1 h16 (.reg .ecx)) := by decide
theorem test_decode_shrRmImm8 : read [0x66, 0xC1, 0xE8, 0x10] = some (.shrRmImm8 h66 (.reg .eax) 16) := by decide
theorem test_decode_outImm8Al : read [0xE6, 0xE4] = some (.outImm8Al h16 0xE4) := by decide
theorem test_decode_cli : read [0xFA] = some (.cli h16) := by decide
theorem test_decode_cld : read [0xFC] = some (.cld h16) := by decide
theorem test_decode_movsB : read [0x2E, 0xA4] = some (.movsB hCs) := by decide
theorem test_decode_movsW : read [0xA5] = some (.movsW h16) := by decide
theorem test_decode_repMovs : read [0xF3, 0x67, 0xA5] = some (.repMovs ⟨[.rep, .addrSize], .s16, .s32⟩ true) := by decide
theorem test_decode_jmpRel8 : read [0xEB, 0xF4] = some (.jmpRel8 h16 0xF4) := by decide
theorem test_decode_jmpRel : read [0x66, 0xE9, 0x04, 0x03, 0x02, 0x01] = some (.jmpRel h66 0x01020304) := by decide
theorem test_decode_jmpFar : read [0xEA, 0x00, 0x01, 0x00, 0x10] = some (.jmpFar h16 0x0100 0x1000) := by decide
theorem test_decode_jmpFarMem : read [0x2E, 0xFF, 0x2E, 0x2E, 0x00] = some (.jmpFarMem hCs (.direct16 0x002E)) := by decide
theorem test_decode_callFar : read [0x9A, 0x00, 0x02, 0x00, 0x20] = some (.callFar h16 0x0200 0x2000) := by decide
/-- FF /3 with ModRM 9CH = mod 2, reg 3, rm 4 and SIB 4DH = scale 1, index ECX, base EBP (R105). -/
theorem test_decode_callFarMem : read [0x67, 0xFF, 0x9C, 0x4D, 0x04, 0x03, 0x02, 0x01] =
    some (.callFarMem h67 (.sib 1 (some .ecx) .ebp (.full 0x01020304))) := by decide
theorem test_decode_jnzRel8 : read [0x75, 0xFD] = some (.jnzRel8 h16 0xFD) := by decide
theorem test_decode_hlt : read [0xF4] = some (.hlt h16) := by decide
theorem test_decode_movRCr0 : read [0x0F, 0x20, 0xC0] = some (.movRCr0 h16 .eax) := by decide
theorem test_decode_movRCr3 : read [0x0F, 0x20, 0xD8] = some (.movRCr3 h16 .eax) := by decide
theorem test_decode_movCr0R : read [0x0F, 0x22, 0xC0] = some (.movCr0R h16 .eax) := by decide
theorem test_decode_movCr3R : read [0x0F, 0x22, 0xD8] = some (.movCr3R h16 .eax) := by decide
theorem test_decode_movRTr6 : read [0x0F, 0x24, 0xF3] = some (.movRTr6 h16 .ebx) := by decide
theorem test_decode_movRTr7 : read [0x0F, 0x24, 0xF8] = some (.movRTr7 h16 .eax) := by decide
theorem test_decode_movTr6R : read [0x0F, 0x26, 0xF0] = some (.movTr6R h16 .eax) := by decide
theorem test_decode_movTr7R : read [0x0F, 0x26, 0xF8] = some (.movTr7R h16 .eax) := by decide
theorem test_decode_lgdt : read [0x2E, 0x0F, 0x01, 0x16, 0x1C, 0x00] = some (.lgdt hCs (.direct16 0x001C)) := by decide
theorem test_decode_lidt : read [0x2E, 0x0F, 0x01, 0x1E, 0x28, 0x00] = some (.lidt hCs (.direct16 0x0028)) := by decide
theorem test_decode_ltr : read [0x0F, 0x00, 0xDB] = some (.ltr h16 (.reg .ebx)) := by decide
theorem test_decode_lar : read [0x0F, 0x02, 0xD3] = some (.lar h16 .edx (.reg .ebx)) := by decide
/-- TR0, a debug-register move, CR2: no instructions of the spec (R109). -/
theorem test_decode_refused : read [0x0F, 0x24, 0xC0] = none ∧ read [0x0F, 0x23, 0xC0] = none ∧ read [0x0F, 0x20, 0xD0] = none ∧
    read [0xF3, 0x90] = none ∧ read [0x66] = none := by decide

/-! ## Single steps: the start states and expected values are those of spec/95_test_vectors.md sections 2.2 to 2.7 -/

/-- Some bytes placed at a linear address. -/
def put (s : State) (a : DWord) (bs : List Byte) : State := s.setMem (placeBytes s.mem a bs)

/-- An instruction placed where `s` fetches. -/
def code (s : State) (bs : List Byte) : State := put s s.fetchAddr bs

/-- One part of the next state of a step. -/
def look {α : Type} (f : State → α) (s : State) : Option α :=
  match step s with
  | .next t => some (f t)
  | .fault _ => none
  | .refused _ => none

/-- The refusal of a step. -/
def stop (s : State) : Option Refusal :=
  match step s with
  | .next _ => none
  | .fault _ => none
  | .refused r => some r

/-- After reset, with one general register set. -/
def real (r : Reg) (v : DWord) : State := State.reset.setReg 32 r v

/-- DS at base 1000H and BX = 0018H, as the vectors of section 2.5 have them. -/
def dsBx : State := (real .ebx 0x18).setSeg .ds { State.reset.seg.ds with base := 0x1000 }

/-- The six arithmetic flags: CF PF AF ZF SF OF. -/
def six (s : State) : List Bool := [s.eflags.cf, s.eflags.pf, s.eflags.af, s.eflags.zf, s.eflags.sf, s.eflags.of]

/-- Without AF, which XOR and the shifts leave undefined. -/
def fiveButAf (s : State) : List Bool := [s.eflags.cf, s.eflags.pf, s.eflags.zf, s.eflags.sf, s.eflags.of]

/-- Without AF and OF. -/
def fourFlags (s : State) : List Bool := [s.eflags.cf, s.eflags.pf, s.eflags.zf, s.eflags.sf]

theorem test_reset_fetch : State.reset.fetchAddr = 0xFFFFFFF0 := by decide
theorem test_reset_edx : State.reset.gpr.edx.extractLsb' 8 8 = 3#8 := by decide

theorem test_nop : look (fun t => (t.eip, t.gpr)) (code State.reset [0x90]) = some (0xFFF1, State.reset.gpr) := by decide
theorem test_movR8Imm8 : look (fun t => t.gpr.eax) (code (real .eax 0x12345678) [0xB0, 0x01]) = some 0x12345601 := by decide
theorem test_movRImm : look (fun t => t.gpr.ecx) (code (real .ecx 0xAAAA0000) [0xB9, 0xFF, 0x3F]) = some 0xAAAA3FFF := by decide
theorem test_movRm8Imm8 : look (fun t => t.byteAt 0x101D) (code dsBx [0xC6, 0x47, 0x05, 0x92]) = some 0x92 := by decide
theorem test_movRmImm : look (fun t => (t.byteAt 0x101A, t.byteAt 0x101B, t.byteAt 0x101C)) (code dsBx [0xC7, 0x47, 0x02, 0x34, 0x12]) =
    some (0x34, 0x12, 0) := by decide
theorem test_movRm8R8 : look (fun t => t.byteAt 0x101D) (code (dsBx.setReg8 .dh 0x89) [0x88, 0x77, 0x05]) = some 0x89 := by decide
theorem test_movRmR : look (fun t => (t.byteAt 0x000A, t.byteAt 0x000B)) (code (real .eax 0xAAAA1234) [0x26, 0x89, 0x06, 0x0A, 0x00]) =
    some (0x34, 0x12) := by decide
theorem test_movR8Rm8 : look (fun t => t.gpr.eax) (code (put (dsBx.setReg 32 .eax 0x11223344) 0x101F [0x99]) [0x8A, 0x67, 0x07]) =
    some 0x11229944 := by decide
theorem test_movRRm : look (fun t => t.gpr.ecx) (code (put (dsBx.setReg 32 .ecx 0xAAAA5555) 0x1018 [0x67, 0x00]) [0x8B, 0x0F]) =
    some 0xAAAA0067 := by decide
theorem test_movAlMoffs : look (fun t => t.reg8 .al) (code (put dsBx 0x1022 [0x34, 0x12]) [0xA0, 0x23, 0x00]) = some 0x12 := by decide
theorem test_movAxMoffs : look (fun t => t.reg 16 .eax) (code (put dsBx 0x1022 [0x34, 0x12]) [0xA1, 0x22, 0x00]) = some 0x1234 := by
  decide
theorem test_movMoffsAl : look (fun t => (t.byteAt 0x1004, t.byteAt 0x1005)) (code (dsBx.setReg 32 .eax 0x2110) [0xA2, 0x04, 0x00]) =
    some (0x10, 0) := by decide
theorem test_movMoffsAx : look (fun t => (t.byteAt 4, t.byteAt 5)) (code (real .eax 0x2110) [0xA3, 0x04, 0x00]) = some (0x10, 0x21) := by
  decide

theorem test_xorAlImm8 : look (fun t => (t.reg8 .al, fiveButAf t)) (code (real .eax 1) [0x34, 0x01]) =
    some (0, [false, true, true, false, false]) := by decide
theorem test_xorAlImm8_sign : look (fun t => (t.reg8 .al, fiveButAf t)) (code State.reset [0x34, 0x80]) =
    some (0x80, [false, false, false, true, false]) := by decide
theorem test_xorRmR : look (fun t => (t.gpr.edi, fiveButAf t)) (code (real .edi 0xABCD1234) [0x31, 0xFF]) =
    some (0xABCD0000, [false, true, true, false, false]) := by decide
theorem test_xorRRm : look (fun t => (t.gpr.edi, t.gpr.esi)) (code ((real .edi 0xABCD1234).setReg 32 .esi 0xFF) [0x33, 0xFE]) =
    some (0xABCD12CB, 0xFF) := by decide
theorem test_incR : look (fun t => (t.reg 16 .ecx, six t)) (code ((real .ecx 0xFFFF).setEflags (Eflags.ofWord 3)) [0x41]) =
    some (0, [true, true, true, true, false, false]) := by decide
theorem test_incR_overflow : look (fun t => (t.reg 16 .ecx, six t)) (code (real .ecx 0x7FFF) [0x41]) =
    some (0x8000, [false, true, true, false, true, true]) := by decide
theorem test_decR : look (fun t => (t.reg 16 .ecx, six t)) (code (real .ecx 0) [0x49]) =
    some (0xFFFF, [false, true, true, false, true, false]) := by decide
theorem test_decR_overflow : look (fun t => (t.reg 16 .ecx, six t)) (code (real .ecx 0x8000) [0x49]) =
    some (0x7FFF, [false, true, true, false, false, true]) := by decide
theorem test_shlRmImm8 : look (fun t => (t.gpr.eax, fourFlags t)) (code (real .eax 0x00018000) [0x66, 0xC1, 0xE0, 0x10]) =
    some (0x80000000, [true, true, false, true]) := by decide
theorem test_shlRmImm8_one : look (fun t => (t.reg 16 .eax, fiveButAf t)) (code (real .eax 0xC000) [0xC1, 0xE0, 0x01]) =
    some (0x8000, [true, true, false, true, false]) := by decide
theorem test_shrRm1 : look (fun t => (t.reg 16 .ecx, fiveButAf t)) (code (real .ecx 0x8001) [0xD1, 0xE9]) =
    some (0x4000, [true, true, false, false, true]) := by decide
theorem test_shrRm1_odd : look (fun t => (t.reg 16 .ecx, fiveButAf t)) (code (real .ecx 0x0041) [0xD1, 0xE9]) =
    some (0x0020, [true, false, false, false, false]) := by decide
theorem test_shrRmImm8 : look (fun t => (t.gpr.eax, fourFlags t)) (code (real .eax 0x12345678) [0x66, 0xC1, 0xE8, 0x10]) =
    some (0x00001234, [false, false, false, false]) := by decide
theorem test_shrRmImm8_out : look (fun t => (t.gpr.eax, fourFlags t)) (code (real .eax 0x0000FFFF) [0x66, 0xC1, 0xE8, 0x10]) =
    some (0, [true, true, true, false]) := by decide

theorem test_outImm8Al : look (fun t => (t.ports, t.gpr)) (code State.reset [0xE6, 0xE4]) = some ([⟨0x00E4, 1, 0⟩], State.reset.gpr) := by
  decide
theorem test_cli : look (fun t => t.eflags.toWord) (code (State.reset.setEflags (Eflags.ofWord 0x202)) [0xFA]) = some 0x2 := by decide
theorem test_cld : look (fun t => t.eflags.toWord) (code (State.reset.setEflags (Eflags.ofWord 0x402)) [0xFC]) = some 0x2 := by decide
theorem test_movsB : look (fun t => (t.byteAt 0, t.gpr.esi, t.gpr.edi)) (code (put (real .esi 0x10) 0xFFFF0010 [0x5A]) [0x2E, 0xA4]) =
    some (0x5A, 0x11, 1) := by decide
theorem test_movsB_down : look (fun t => (t.byteAt 0, t.gpr.esi, t.gpr.edi))
    (code ((put (real .esi 0x10) 0xFFFF0010 [0x5A]).setEflags (Eflags.ofWord 0x402)) [0x2E, 0xA4]) = some (0x5A, 0xF, 0xFFFF) := by decide
theorem test_movsW : look (fun t => (t.byteAt 0, t.byteAt 1, t.gpr.esi, t.gpr.edi)) (code (put (real .esi 0x10) 0x10 [0x5A, 0x6B]) [0xA5]) =
    some (0x5A, 0x6B, 0x12, 2) := by decide
/-- REP with a CS override in 16-bit code. -/
def hCsRep : Hdr := ⟨[.seg .cs, .rep], .s16, .s16⟩

/-- Program P5's copy of bytes, with `n` of them still to go. -/
def copying (n : DWord) : State := code (put ((real .ecx n).setReg 32 .esi 0x120) 0xFFFF0120 [0x11, 0x22, 0x33, 0x44]) [0x2E, 0xF3, 0xA4]

/-- The same between two iterations. -/
def copyingOn (n : DWord) : State := (copying n).setRepeat (some ⟨hCsRep, false⟩)

/-- The first iteration of four, with EIP still at the REP, and the last one (R208). -/
theorem test_repMovs :
    look (fun t => (t.valueAt 0 4, t.gpr.ecx, t.gpr.esi, t.gpr.edi, t.eip)) (copying 4) = some (0x11, 3, 0x121, 1, 0xFFF0) ∧
    look (fun t => t.repeating) (copying 4) = some (some ⟨hCsRep, false⟩) ∧
    look (fun t => (t.gpr.ecx, t.eip, t.repeating)) (copyingOn 1) = some (0, 0xFFF3, none) := by decide
theorem test_repMovs_zero : look (fun t => (t.gpr.esi, t.gpr.edi, t.eip)) (code (real .ecx 0xAAAA0000) [0x2E, 0xF3, 0xA4]) =
    some (0, 0, 0xFFF3) := by decide

theorem test_jmpRel8 : look (fun t => t.fetchAddr) (code State.reset [0xEB, 0x7F]) = some 0xFFFF0071 := by decide
theorem test_jmpRel8_back : look (fun t => t.fetchAddr) (code State.reset [0xEB, 0x80]) = some 0xFFFFFF72 := by decide
theorem test_jmpRel : look (fun t => t.fetchAddr) (code State.reset [0xE9, 0x4D, 0x00]) = some 0xFFFF0040 := by decide
theorem test_jmpRel_32 : look (fun t => t.eip) (code (State.reset.setEip 0x100) [0x66, 0xE9, 0, 0, 0, 0]) = some 0x106 := by decide
theorem test_jmpFar : look (fun t => (t.seg.cs.sel, t.seg.cs.base, t.eip)) (code State.reset [0xEA, 0x00, 0x01, 0x00, 0x10]) =
    some (0x1000, 0x00010000, 0x100) := by decide
theorem test_jmpFarMem : look (fun t => (t.seg.cs.sel, t.seg.cs.base, t.eip))
    (code (put State.reset 0xFFFF002E [0x00, 0x00, 0x18, 0x00]) [0x2E, 0xFF, 0x2E, 0x2E, 0x00]) = some (0x18, 0x180, 0) := by decide

/-- SS loaded, SP = 0100H, CS = F000H, IP = 0010H: the row of R134. -/
def stacked : State :=
  { ((State.reset.setReg 32 .esp 0x100).setSeg .cs { State.reset.seg.cs with sel := 0xF000, base := 0x000F0000 }).setEip 0x10 with
    ssLoaded := true }

theorem test_callFar : look (fun t => (t.valueAt 0xFE 2, t.valueAt 0xFC 2, t.gpr.esp, t.seg.cs.base, t.eip))
    (code stacked [0x9A, 0x00, 0x02, 0x00, 0x20]) = some (0xF000, 0x0015, 0xFC, 0x00020000, 0x200) := by decide
theorem test_callFar_before_ss : stop (code State.reset [0x9A, 0x00, 0x02, 0x00, 0x20]) = some .stackBeforeSs := by decide
theorem test_callFarMem : look (fun t => (t.valueAt 0xFE 2, t.valueAt 0xFC 2, t.gpr.esp, t.seg.cs.base, t.eip))
    (code (put stacked 0x40 [0x00, 0x02, 0x00, 0x20]) [0xFF, 0x1E, 0x40, 0x00]) =
      some (0xF000, 0x0014, 0xFC, 0x00020000, 0x200) := by decide
theorem test_jnzRel8 : look (fun t => t.eip) (code (State.reset.setEip 0xA) [0x75, 0xFD]) = some 9 := by decide
theorem test_jnzRel8_zero : look (fun t => t.eip) (code ((State.reset.setEip 0xA).setZf true) [0x75, 0xFD]) = some 0xC := by decide
theorem test_hlt : look (fun t => (t.eip, t.run)) (code (State.reset.setEip 0xC) [0xF4]) = some (0xD, .halted) := by decide

theorem test_movRCr0 : look (fun t => t.gpr.eax.extractLsb' 0 4) (code (real .eax 0xFFFFFFFF) [0x0F, 0x20, 0xC0]) = some 0 := by decide
theorem test_movRCr3 : look (fun t => t.gpr.eax) (code { State.reset with cr3 := 0x2000 } [0x0F, 0x20, 0xD8]) = some 0x2000 := by decide
theorem test_movCr0R : look (fun t => (t.cr0, t.prefetchStale, t.seg)) (code (real .eax 1) [0x0F, 0x22, 0xC0]) =
    some (1, true, State.reset.seg) := by decide
theorem test_movCr0R_et : look (fun t => (t.cr0, t.prefetchStale)) (code (real .eax 0x10) [0x0F, 0x22, 0xC0]) = some (0x10, false) := by
  decide

/-- TLB[1][3] as the row of R153 has it. -/
def oneEntry : TlbEntry :=
  { lin := 3, v := true, d := false, u := true, w := true, phys := 0x444, written := true, rewritten := false }

theorem test_movCr3R : look (fun t => (t.cr3, Tlb.entry t.tlb 1 3))
    (code { real .eax 0x2000 with tlb := Tlb.put State.reset.tlb 1 3 oneEntry } [0x0F, 0x22, 0xD8]) =
      some (0x2000, { oneEntry with v := false }) := by decide

/-- TR7 = 12345010H: physical address 12345H, HT 1, REP 0. -/
def staged : State := { State.reset with tr7 := TR7.ofWord .generalKnowledge 0x12345010 }

/-- TLB[0][6] after the write command ABCDEB40H. -/
def written : TlbEntry :=
  { lin := 0xABCDE, v := true, d := false, u := true, w := true, phys := 0x12345, written := true, rewritten := false }

theorem test_movTr7R : look (fun t => t.tr7) (code (real .eax 0x12345010) [0x0F, 0x26, 0xF8]) = some ⟨0x12345, true, 0⟩ := by decide
theorem test_movTr6R_write : look (fun t => (Tlb.entry t.tlb 0 6, t.tlbMark, t.tr7))
    (code (staged.setReg 32 .eax 0xABCDEB40) [0x0F, 0x26, 0xF0]) = some (written, .clean, staged.tr7) := by decide
theorem test_movTr6R_lookup : look (fun t => t.tr7)
    (code { real .eax 0xABCDEB41 with tlb := Tlb.put State.reset.tlb 0 6 written } [0x0F, 0x26, 0xF0]) = some ⟨0x12345, true, 0⟩ := by
  decide
/-- Whatever the reserved bits read as (R231; D15). -/
theorem test_movRTr7 : ∀ f ∈ ([0, 0xFFFFFFFF, 0xA5A5A5A5] : List DWord),
    TR7.toWord .generalKnowledge staged.tr7 f &&& 0xFFFFF01C = 0x12345010 := by
  intro f h
  simp only [List.mem_cons, List.not_mem_nil, or_false] at h
  rcases h with rfl | rfl | rfl <;> decide
theorem test_movRTr7_step : look (fun t => (t.tr7, t.eip, t.gpr.ebx)) (code staged [0x0F, 0x24, 0xF8]) =
    some (staged.tr7, 0xFFF3, 0) := by decide
/-- Whatever the reserved bits read as (R230; D15). -/
theorem test_movRTr6 : ∀ f ∈ ([0, 0xFFFFFFFF, 0x5A5A5A5A] : List DWord),
    TR6.toWord .generalKnowledge (TR6.ofWord .generalKnowledge 0xABCDEB41) f &&& 0xFFFFFFE1 = 0xABCDEB41 := by
  intro f h
  simp only [List.mem_cons, List.not_mem_nil, or_false] at h
  rcases h with rfl | rfl | rfl <;> decide
theorem test_movRTr6_step : look (fun t => (t.tr6, t.eip, t.gpr.eax))
    (code { State.reset with tr6 := TR6.ofWord .generalKnowledge 0xABCDEB41 } [0x0F, 0x24, 0xF3]) =
      some (TR6.ofWord .generalKnowledge 0xABCDEB41, 0xFFF3, 0) := by decide

/-- Another part: TR6 with the address in bits 19:0 and C in bit 31, TR7 with REP in bits 31:30, and index 2 for page ABCDEH. -/
def otherPart : TrLayout :=
  { lin := 0, v := 20, d := 21, dn := 22, u := 23, un := 24, w := 25, wn := 26, c := 31, phys := 0, ht := 20, rep := 30 }

/-- The fields lie where the part has them, and the index is the part's (D12, D13; R4). -/
theorem test_layout : TrLayout.generalKnowledge.wf = true ∧ otherPart.wf = true ∧
    TR7.ofWord otherPart 0xC0112345 = ⟨0x12345, true, 3⟩ ∧ (TR6.ofWord otherPart 0x800ABCDE).c = true ∧
    (TR6.ofWord otherPart 0x800ABCDE).lin = 0xABCDE ∧ tlbIndex [] 0xABCDE = 6 ∧ tlbIndex [(0xABCDE, 2)] 0xABCDE = 2 ∧
    tlbIndex [(0xABCDE, 2)] 0xABCDF = 7 := by decide

theorem test_lgdt : look (fun t => (t.gdtr, t.gdtrLoaded))
    (code (put State.reset 0xFFFF0022 [0x17, 0x00, 0x78, 0x56, 0x34, 0x12]) [0x2E, 0x0F, 0x01, 0x16, 0x22, 0x00]) =
      some (⟨0x00345678, 0x17⟩, true) := by decide
theorem test_lgdt_32 : look (fun t => t.gdtr)
    (code (put State.reset 0xFFFF0022 [0x17, 0x00, 0x78, 0x56, 0x34, 0x12]) [0x66, 0x2E, 0x0F, 0x01, 0x16, 0x22, 0x00]) =
      some ⟨0x12345678, 0x17⟩ := by decide
theorem test_lidt : look (fun t => t.idtr)
    (code (put State.reset 0xFFFF0028 [0xFF, 0x00, 0x00, 0x04, 0x00, 0x00]) [0x2E, 0x0F, 0x01, 0x1E, 0x28, 0x00]) =
      some ⟨0x400, 0xFF⟩ := by decide

/-- Protected mode with the GDT at 1000H, limit 003FH, and one register set. -/
def prot (r : Reg) (v : DWord) : State :=
  { real r v with cr0 := 1, gdtrLoaded := true, gdtr := ⟨0x1000, 0x3F⟩ }

theorem test_movSregRm : look (fun t => (t.seg.ss.sel, t.seg.ss.base, t.ssLoaded, t.holdOff)) (code (real .eax 0x2000) [0x8E, 0xD0]) =
    some (0x2000, 0x00020000, true, true) := by decide
theorem test_movSregRm_protected : look (fun t => (t.seg.fs.sel, t.seg.fs.base, t.seg.fs.limit, t.byteAt 0x101D))
    (code (put (prot .ebx 0x18) 0x1018 [0x67, 0, 0, 0x20, 0, 0x92, 0, 0]) [0x8E, 0xE3]) = some (0x18, 0x2000, 0x67, 0x93) := by decide
theorem test_lar : look (fun t => (t.reg 16 .edx, t.eflags.zf)) (code (put (prot .ebx 0x18) 0x101D [0x89]) [0x0F, 0x02, 0xD3]) =
    some (0x8900, true) := by decide
theorem test_lar_outside : look (fun t => (t.reg 16 .edx, t.eflags.zf)) (code (prot .ebx 0x48) [0x0F, 0x02, 0xD3]) =
    some (0x0300, false) := by decide
theorem test_ltr : look (fun t => (t.tr, t.byteAt 0x1025))
    (code (put (prot .ebx 0x20) 0x1020 [0x67, 0, 0, 0, 0, 0x89, 0, 0]) [0x0F, 0x00, 0xDB]) = some (⟨0x20, 0, 0x67⟩, 0x8B) := by decide
theorem test_ltr_real : stop (code State.reset [0x0F, 0x00, 0xDB]) = some (.delivery (.exception .invalidOpcode)) := by decide

theorem test_shutdown : look (fun t => t.run) (code { real .eax 0x80000000 with idtr := ⟨0, 0⟩ } [0x0F, 0x22, 0xC0]) = some .shutdown := by
  decide
/-- An NMI between two iterations of a REP MOVS, with a zero limit: shutdown part-way, EIP at the REP (R208, R262). -/
theorem test_repMovs_nmi : look (fun t => (t.run, t.eip, t.gpr.ecx, t.repeating))
    { copyingOn 3 with inputs := ⟨none, true, false⟩, idtr := ⟨0, 0⟩ } =
      some (.shutdown, 0xFFF0, 3, none) := by decide
/-- A REP MOVS right after a load of SS, an NMI waiting: the hold-off lasts over its iterations and ends with the last one (R174). -/
theorem test_repMovs_holdOff :
    look (fun t => (t.run, t.gpr.ecx, t.holdOff)) { copying 3 with holdOff := true, inputs := ⟨none, true, false⟩, idtr := ⟨0, 0⟩ } =
      some (.running, 2, true) ∧
    look (fun t => (t.run, t.gpr.ecx, t.holdOff)) { copyingOn 2 with holdOff := true, inputs := ⟨none, true, false⟩, idtr := ⟨0, 0⟩ } =
      some (.running, 1, true) ∧
    look (fun t => (t.run, t.gpr.ecx, t.holdOff)) { copyingOn 1 with holdOff := true, inputs := ⟨none, true, false⟩, idtr := ⟨0, 0⟩ } =
      some (.running, 0, false) := by decide
theorem test_prefetch_stale : stop (code { State.reset with prefetchStale := true } [0x75, 0xFD]) = some .prefetchStale := by decide
theorem test_withFetchWord : look (fun t => t.gpr.eax) (State.reset.withFetchWord 16 0x01B0) = some 1 := by decide

/-! ## Witnesses: the hypotheses of each statement, and of each of its clauses, can be met -/

/-- Where the memory map has no region and paging is off, everything can be accessed. -/
theorem open_present {s : State} (hm : s.memMap = []) (hp : s.pg = false) (a : DWord) (n : Nat) : Present s a n :=
  ⟨hp, fun _ _ => by rw [hm]; exact (by decide : RegionKind.ram ≠ RegionKind.absent)⟩

theorem open_ready {s : State} {a : Res DWord} (hm : s.memMap = []) (hp : s.pg = false) (he : a = .ok (addrOf a)) (n : Nat) :
    AddrReady s a n := ⟨he, open_present hm hp _ n⟩

/-- `dsBx` with nothing answering from 101EH on: the byte at [BX+5] is the last one. -/
def edge : State := { dsBx with memMap := [⟨0x101E, 0x1000, .absent⟩] }

/-- Protected mode at level 3. -/
def user : State := { prot .ebx 0 with cpl := 3 }

/-- A RESET is waiting, with a self-test result. -/
def resetting : State :=
  { State.reset with inputs := ⟨some { ResetParams.default with selftest := some 0 }, true, true⟩ }

def bx5 : Mem := .based16 .bx (.d8 5)
def bx4 : Mem := .based16 .bx (.d8 4)

theorem edge_byte : AddrReady edge (operandAddr edge h16 bx5) 1 :=
  ⟨rfl, rfl, fun k hk => by obtain rfl : k = 0 := by omega
                            decide⟩

theorem edge_word : AddrReady edge (operandAddr edge h16 bx4) h16.os.bytes :=
  ⟨rfl, rfl, fun k hk => by
    have : k = 0 ∨ k = 1 := by simp only [h16, Size.bytes] at hk; omega
    rcases this with rfl | rfl <;> decide⟩

/-- Fifteen bytes: four prefixes, opcode, ModRM, SIB, displacement, immediate. -/
theorem wit_DecodeEncode :
    Instr.wf false (.movRmImm ⟨[.opSize, .addrSize, .seg .gs, .seg .fs], .s32, .s32⟩ (.mem (.sib 3 (some .edi) .esp (.full 0x80000000)))
      0xFFFFFFFF) = true ∧
    Instr.wf true (.movRmImm ⟨[.addrSize, .opSize], .s16, .s16⟩ (.mem (.based16 .bp (.d8 0x80))) 0xFFFF) = true := by decide

theorem wit_DecodedWellFormed : decode true [0x90] = .ok (.nop ⟨[], .s32, .s32⟩) := by decide

theorem wit_DecodeReadsItsLength : decode false [0xC6, 0x47, 0x05, 0x92, 0xF4] = .ok (.movRm8Imm8 h16 (.mem bx5) 0x92) := by decide

theorem wit_SpecialRegisterNumbers :
    (∀ b ∈ ([0xC8, 0x38] : List Byte), b.extractLsb' 3 3 ≠ 0#3 ∧ b.extractLsb' 3 3 ≠ 3#3) ∧
    ∀ b ∈ ([0xC0, 0x28] : List Byte), b.extractLsb' 3 3 ≠ 6#3 ∧ b.extractLsb' 3 3 ≠ 7#3 := by decide

theorem wit_StepRunsDecoded : ∃ (s : State) (i : Instr), Undisturbed s ∧ s.prefetchStale = false ∧
    decode s.code32 (s.readable s.fetchAddr s.fetchRoom).1 = .ok i :=
  ⟨code State.reset [0x90], .nop h16, ⟨rfl, rfl, .inr ⟨rfl, .inl rfl⟩, rfl⟩, rfl, by decide⟩

/-- An NMI waits while interrupts are held off. -/
theorem wit_StepRunsDecoded_holdOff : ∃ (s : State) (i : Instr), Undisturbed s ∧ s.inputs.nmi = true ∧ s.prefetchStale = false ∧
    decode s.code32 (s.readable s.fetchAddr s.fetchRoom).1 = .ok i :=
  ⟨{ code State.reset [0x90] with holdOff := true, inputs := ⟨none, true, false⟩ }, .nop h16, ⟨rfl, rfl, .inl rfl, rfl⟩, rfl, rfl, by decide⟩

/-- A REP MOVS of two iterations, and of one, held off. -/
theorem wit_StepRunsDecoded_rep : ∀ n ∈ ([2, 1] : List DWord), ∃ (s : State) (t : State), Undisturbed s ∧ s.holdOff = true ∧
    s.inputs.nmi = true ∧ s.prefetchStale = false ∧ s.reg hCsRep.as.bits .ecx = n.setWidth hCsRep.as.bits ∧
    decode s.code32 (s.readable s.fetchAddr s.fetchRoom).1 = .ok (.repMovs hCsRep false) ∧ step s = .next t := by
  intro n h
  simp only [List.mem_cons, List.not_mem_nil, or_false] at h
  rcases h with rfl | rfl
  · exact ⟨{ copying 2 with holdOff := true, inputs := ⟨none, true, false⟩ }, _, ⟨rfl, rfl, .inl rfl, rfl⟩, rfl, rfl, rfl, by decide,
      by decide, rfl⟩
  · exact ⟨{ copying 1 with holdOff := true, inputs := ⟨none, true, false⟩ }, _, ⟨rfl, rfl, .inl rfl, rfl⟩, rfl, rfl, rfl, by decide,
      by decide, rfl⟩

/-- A REP MOVS between two iterations. -/
theorem wit_StepRunsDecoded_repeat : ∃ (s : State) (r : Repeat), s.run = .running ∧ s.inputs.reset = none ∧ NoInterrupt s ∧
    s.repeating = some r ∧ ∃ t, step s = .next t :=
  ⟨copyingOn 3, _, rfl, rfl, .inr ⟨rfl, .inl rfl⟩, rfl, _, rfl⟩

/-- One byte at the end of the 64K segment. -/
theorem wit_StepRunsEncoded : ∃ (s : State) (i : Instr), Undisturbed s ∧ s.prefetchStale = false ∧ i.wf s.code32 = true ∧
    i.length = s.fetchRoom ∧ Present s s.fetchAddr i.length ∧
    ∀ k, k < i.length → s.byteAt (s.fetchAddr + BitVec.ofNat 32 k) = (encode i).getD k 0 :=
  ⟨code (State.reset.setEip 0xFFFF) [0x90], .nop h16, ⟨rfl, rfl, .inr ⟨rfl, .inl rfl⟩, rfl⟩, rfl, by decide, by decide,
    open_present rfl rfl _ _, by decide⟩

theorem wit_PrefetchRule_other : ∃ (s : State) (i : Instr), Undisturbed s ∧ s.prefetchStale = true ∧ s.fetch = .ok i ∧ isJmp i = false :=
  ⟨{ code State.reset [0x90] with prefetchStale := true }, .nop h16, ⟨rfl, rfl, .inr ⟨rfl, .inl rfl⟩, rfl⟩, rfl, by decide, rfl⟩

theorem wit_PrefetchRule_jmp : ∃ (s t : State), Undisturbed s ∧ s.prefetchStale = true ∧ s.fetch = .ok (.jmpRel8 h16 0) ∧ step s = .next t :=
  ⟨{ code State.reset [0xEB, 0] with prefetchStale := true }, _, ⟨rfl, rfl, .inr ⟨rfl, .inl rfl⟩, rfl⟩, rfl, by decide, rfl⟩

theorem wit_PrefetchRule_change : (∃ t, exec (.movCr0R h16 .eax) (real .eax 1) = .next t ∧ t.pe ≠ (real .eax 1).pe) ∧
    ∃ t, exec (.movCr0R h16 .eax) (prot .eax 0x80000001) = .next t ∧ t.pg ≠ (prot .eax 0x80000001).pg :=
  ⟨⟨_, rfl, by decide⟩, ⟨_, rfl, by decide⟩⟩

theorem wit_FarDropsLow : (∃ t, exec (.jmpFar h16 0xFFFF 0xF000) State.reset = .next t) ∧
    (∃ t, exec (.jmpFar h16 0xFFFF 0xFFFF) State.reset = .next t) ∧ (∃ t, exec (.jmpFarMem h16 bx5) dsBx = .next t) ∧
    (∃ t, exec (.callFar h16 0xFFFF 0xF001) stacked = .next t) ∧ ∃ t, exec (.callFarMem h16 bx5) stacked = .next t :=
  ⟨⟨_, rfl⟩, ⟨_, rfl⟩, ⟨_, rfl⟩, ⟨_, rfl⟩, ⟨_, rfl⟩⟩

theorem wit_FarDropsLow_stays : ∃ s t : State, s.inputs.reset = none ∧ s.seg.cs.base ≠ 0xFFFF0000 ∧ step s = .next t :=
  ⟨code stacked [0x90], _, rfl, by decide, rfl⟩

theorem wit_ResetFunction : ∃ (s : State) (p : ResetParams) (v : DWord), s.inputs.reset = some p ∧ p.selftest = some v :=
  ⟨resetting, _, _, rfl, rfl⟩

theorem wit_UpperFetchAfterReset : (∃ p t, resetting.inputs.reset = some p ∧ step resetting = .next t) ∧
    State.reset.seg.cs.base = 0xFFFF0000 ∧ State.reset.pe = false ∧ (∃ t, exec (.jmpRel8 h16 0x80) State.reset = .next t) ∧
    (∃ t, exec (.jmpRel h16 0xFFFF) State.reset = .next t) ∧ ∃ t, exec (.jnzRel8 h16 0x7F) State.reset = .next t :=
  ⟨⟨_, _, rfl, rfl⟩, by decide, by decide, ⟨_, rfl⟩, ⟨_, rfl⟩, ⟨_, rfl⟩⟩

/-- An NMI and a request, before an instruction and between two iterations of a REP MOVS, with the limit 0 and 1. -/
theorem wit_ZeroLimitShutsDown :
    (∃ s : State, s.run = .running ∧ s.inputs.reset = none ∧ s.holdOff = false ∧ s.inputs.nmi = true ∧ s.idtr.limit = 0 ∧
      s.repeating ≠ none) ∧
    ∃ s : State, s.run = .running ∧ s.inputs.reset = none ∧ s.holdOff = false ∧ s.inputs.nmi = false ∧ s.inputs.intr = true ∧
      s.eflags.ifl = true ∧ s.idtr.limit = 1 :=
  ⟨⟨{ copyingOn 3 with inputs := ⟨none, true, false⟩, idtr := ⟨0, 0⟩ },
      rfl, rfl, rfl, rfl, rfl, by decide⟩,
    ⟨{ State.reset with inputs := ⟨none, false, true⟩, eflags := Eflags.ofWord 0x202, idtr := ⟨0, 1⟩ },
      rfl, rfl, rfl, rfl, rfl, rfl, rfl⟩⟩

/-- In halted both an NMI and an enabled request wait. -/
theorem wit_QuietStates : (∃ s : State, s.run = .shutdown ∧ s.inputs.reset = none ∧ s.inputs.nmi = true) ∧
    (∃ s : State, s.run = .shutdown ∧ s.inputs.reset = none ∧ s.inputs.nmi = false) ∧
    ∃ s : State, s.run = .halted ∧ s.inputs.reset = none ∧ s.inputs.nmi = true ∧ s.inputs.intr = true ∧ s.eflags.ifl = true :=
  ⟨⟨{ State.reset with run := .shutdown, inputs := ⟨none, true, false⟩ }, rfl, rfl, rfl⟩,
    ⟨{ State.reset with run := .shutdown }, rfl, rfl, rfl⟩,
    ⟨{ State.reset with run := .halted, inputs := ⟨none, true, true⟩, eflags := Eflags.ofWord 0x202 }, rfl, rfl, rfl, rfl, rfl⟩⟩

theorem wit_privileged : Privileged (prot .eax 0) ∧ Privileged State.reset := ⟨.inr rfl, .inl rfl⟩

theorem wit_TestRegisterPrivilege : (user.pe = true ∧ user.cpl ≠ 0) ∧ (∃ t, exec (.movTr6R h16 .eax) (staged.setReg 32 .eax 0x2A0) = .next t) ∧
    (∃ t, exec (.movRTr6 h16 .eax) (prot .eax 0) = .next t) ∧ ∃ t, exec (.movTr7R h16 .eax) (prot .eax 0) = .next t :=
  ⟨by decide, ⟨_, rfl⟩, ⟨_, rfl⟩, ⟨_, rfl⟩⟩

theorem wit_PrivilegedInstructions : ∃ s : State, s.pe = true ∧ s.cpl = 1 := ⟨{ user with cpl := 1 }, rfl, rfl⟩

theorem wit_IoplAndModeTraps : (∃ s : State, s.pe = true ∧ s.eflags.iopl = 2 ∧ s.eflags.iopl < s.cpl) ∧ State.reset.pe = false :=
  ⟨⟨{ user with eflags := Eflags.ofWord 0x2002 }, rfl, by decide, by decide⟩, by decide⟩

theorem wit_PagingNeedsProtection :
    (∃ s : State, Privileged s ∧ (s.reg 32 .eax).getLsbD 31 = true ∧ (s.reg 32 .eax).getLsbD 0 = false) ∧
    (∃ s : State, Privileged s ∧ (s.reg 32 .eax).getLsbD 31 = true ∧ (s.reg 32 .eax).getLsbD 0 = true) ∧
    ∃ s : State, Privileged s ∧ s.pe = true ∧ (s.reg 32 .eax).getLsbD 31 = false ∧ (s.reg 32 .eax).getLsbD 0 = false :=
  ⟨⟨real .eax 0x80000000, .inl rfl, by decide, by decide⟩, ⟨real .eax 0x80000001, .inl rfl, by decide, by decide⟩,
    ⟨prot .eax 0, .inr rfl, rfl, by decide, by decide⟩⟩

/-- Null selectors 0 and 3, an LDT selector, and the selector whose last byte is one past the limit. -/
theorem wit_SegmentLoadStops : (prot .ebx 0).pe = true ∧ RmReady (prot .ebx 0) h16 (RM.reg .ebx : RM Reg) 2 ∧
    { prot .ebx 0 with gdtrLoaded := false }.gdtrLoaded = false ∧ (prot .ebx 0).gdtrLoaded = true ∧
    selNull (rmValue 16 (prot .ebx 0) h16 (.reg .ebx)) = true ∧ selNull (rmValue 16 (prot .ebx 3) h16 (.reg .ebx)) = true ∧
    selNull (rmValue 16 (prot .ebx 4) h16 (.reg .ebx)) = false ∧ selLdt (rmValue 16 (prot .ebx 4) h16 (.reg .ebx)) = true ∧
    selNull (rmValue 16 (prot .ebx 0x38) h16 (.reg .ebx)) = false ∧ selLdt (rmValue 16 (prot .ebx 0x38) h16 (.reg .ebx)) = false ∧
    (0x3E : Word16).toNat < (selOffset (rmValue 16 (prot .ebx 0x38) h16 (.reg .ebx))).toNat + 7 :=
  ⟨by decide, trivial, rfl, rfl, by decide, by decide, by decide, by decide, by decide, by decide, by decide⟩

/-- A descriptor that is not present, a system descriptor, read-only data for SS, code that cannot be read for DS, and data of level 0 for a
requested level 3. -/
theorem wit_SegmentLoadStops_descriptor : GdtEntry (prot .ebx 0x38) (rmValue 16 (prot .ebx 0x38) h16 (.reg .ebx)) ∧
    segmentOk .ds ((prot .ebx 0x38).byteAt ((prot .ebx 0x38).gdtAddr 0x38 + 5)) 0 0 = false ∧ segmentOk .ds 0x12 0 0 = false ∧
    segmentOk .ds 0x82 0 0 = false ∧ segmentOk .ss 0x90 0 0 = false ∧ segmentOk .ds 0x98 0 0 = false ∧ segmentOk .es 0x92 0 3 = false :=
  ⟨⟨by decide, by decide, by decide, open_present rfl rfl _ _⟩, by decide, by decide, by decide, by decide, by decide, by decide⟩

/-- The limit one byte short, and just long enough with a descriptor that is not present or a busy TSS. -/
theorem wit_LtrTraps : (prot .ebx 0x20).pe = true ∧ (prot .ebx 0x20).cpl = 0 ∧ RmReady (prot .ebx 0x20) h16 (RM.reg .ebx : RM Reg) 2 ∧
    (0x26 : Word16).toNat < (selOffset (rmValue 16 (prot .ebx 0x20) h16 (.reg .ebx))).toNat + 7 ∧
    (selOffset (rmValue 16 (prot .ebx 0x20) h16 (.reg .ebx))).toNat + 7 ≤ (0x27 : Word16).toNat ∧
    Present (prot .ebx 0x20) ((prot .ebx 0x20).gdtAddr 0x20) 8 ∧
    ((put (prot .ebx 0x20) 0x1020 [0x67, 0, 0, 0, 0, 0x09]).byteAt 0x1025).getLsbD 7 = false ∧
    ((put (prot .ebx 0x20) 0x1020 [0x67, 0, 0, 0, 0, 0x8B]).byteAt 0x1025).extractLsb' 0 5 ≠ 9#5 ∧
    ((put (prot .ebx 0x20) 0x1020 [0x67, 0, 0, 0, 0, 0x8B]).byteAt 0x1025).extractLsb' 0 5 ≠ 1#5 :=
  ⟨by decide, rfl, trivial, by decide, by decide, open_present rfl rfl _ _, by decide, by decide, by decide⟩

theorem wit_gdtEntry : GdtEntry (prot .ebx 0x38) 0x38 := ⟨by decide, by decide, by decide, open_present rfl rfl _ _⟩

/-- The pointer at 101DH; selectors null, of the LDT, outside the limit, of a busy TSS, of a gate and of a code segment. -/
theorem wit_FarTransferStops :
    (∃ s : State, s.pe = true ∧ s.gdtrLoaded = false ∧ AddrReady s (operandAddr s h16 bx5) (h16.os.bytes + 2) ∧
      BitVec.ofNat 16 (s.valueAt (addrOf (operandAddr s h16 bx5) + BitVec.ofNat 32 h16.os.bytes) 2) = 0x18) ∧
    (∃ s : State, s.pe = true ∧ s.gdtrLoaded = true ∧ selNull 3 = true ∧ selLdt 0xC = true ∧
      s.gdtr.limit.toNat < (selOffset 0x40).toNat + 7) ∧
    (∀ a ∈ ([0x8B, 0x81, 0x8C, 0x9A] : List Byte), ∃ s : State, s.pe = true ∧ s.gdtrLoaded = true ∧ GdtEntry s 0x18 ∧
      s.byteAt (s.gdtAddr 0x18 + 5) = a) ∧
    ∃ s : State, s.pe = false ∧ s.ssLoaded = false ∧ AddrReady s (operandAddr s h16 bx5) (h16.os.bytes + 2) := by
  refine ⟨⟨{ put (dsBx.setReg 32 .ecx 0) 0x101F [0x18, 0] with cr0 := 1 }, rfl, rfl, open_ready rfl rfl rfl _, by decide⟩,
    ⟨prot .ebx 0, rfl, rfl, by decide, by decide, by decide⟩,
    ?_,
    ⟨dsBx, by decide, rfl, open_ready rfl rfl rfl _⟩⟩
  intro a h
  simp only [List.mem_cons, List.not_mem_nil, or_false] at h
  rcases h with rfl | rfl | rfl | rfl
  · exact ⟨put (prot .ebx 0) 0x101D [0x8B], rfl, rfl, ⟨by decide, by decide, by decide, open_present rfl rfl _ _⟩, by decide⟩
  · exact ⟨put (prot .ebx 0) 0x101D [0x81], rfl, rfl, ⟨by decide, by decide, by decide, open_present rfl rfl _ _⟩, by decide⟩
  · exact ⟨put (prot .ebx 0) 0x101D [0x8C], rfl, rfl, ⟨by decide, by decide, by decide, open_present rfl rfl _ _⟩, by decide⟩
  · exact ⟨put (prot .ebx 0) 0x101D [0x9A], rfl, rfl, ⟨by decide, by decide, by decide, open_present rfl rfl _ _⟩, by decide⟩

theorem wit_TlbCommandStops :
    (∃ s : State, Privileged s ∧ s.pg = true) ∧
    (∃ s : State, Privileged s ∧ s.pg = false ∧ s.tlbMark = .undefinedV0 ∧ (s.reg 32 .eax).getLsbD s.trLayout.v = false) ∧
    (∃ s : State, Privileged s ∧ s.pg = false ∧ s.tlbMark = .undefined ∧ (s.reg 32 .eax).getLsbD s.trLayout.v = true) ∧
    (∃ s : State, CommandReady s (s.reg 32 .eax) ∧ (s.reg 32 .eax).getLsbD s.trLayout.c = false ∧ s.tr7.ht = false) ∧
    (∃ s : State, CommandReady s (s.reg 32 .eax) ∧ (s.reg 32 .eax).getLsbD s.trLayout.c = true ∧
      (s.reg 32 .eax).getLsbD s.trLayout.v = false ∧ ∃ b i, (Tlb.entry s.tlb b i).written = false) ∧
    (∃ s : State, CommandReady s (s.reg 32 .eax) ∧ (s.reg 32 .eax).getLsbD s.trLayout.c = false ∧ s.tr7.ht = true ∧
      ¬ PairsFormed s.trLayout (s.reg 32 .eax)) ∧
    ∃ s : State, CommandReady s (s.reg 32 .eax) ∧ (s.reg 32 .eax).getLsbD s.trLayout.c = true ∧
      (s.reg 32 .eax).getLsbD s.trLayout.v = true ∧ ¬ PairsFormed s.trLayout (s.reg 32 .eax) :=
  ⟨⟨{ real .eax 0 with cr0 := 0x80000001 }, .inr rfl, rfl⟩,
    ⟨{ real .eax 0 with tlbMark := .undefinedV0 }, .inl rfl, rfl, rfl, by decide⟩,
    ⟨{ real .eax 0x800 with tlbMark := .undefined }, .inl rfl, rfl, rfl, by decide⟩,
    ⟨real .eax 0xABCDEB40, ⟨.inl rfl, rfl, .inl rfl⟩, by decide, rfl⟩,
    ⟨real .eax 0xABCDE341, ⟨.inl rfl, rfl, .inl rfl⟩, by decide, by decide, 3, 7, by decide⟩,
    ⟨staged.setReg 32 .eax 0xABCDEF40, ⟨.inl rfl, rfl, .inl rfl⟩, by decide, rfl, by unfold PairsFormed; decide⟩,
    ⟨real .eax 0xABCDEB61, ⟨.inl rfl, rfl, .inl rfl⟩, by decide, by decide, by unfold PairsFormed; decide⟩⟩

/-- No override, one, and two of which the last counts. -/
theorem wit_EffectiveAddress : OperandSegment h16 (memSeg (.based16 .bp (.d8 0x80))) .ss ∧
    OperandSegment hCs (memSeg (.based16 .bp (.d8 0x80))) .cs ∧
    OperandSegment ⟨[.seg .fs, .seg .gs, .opSize], .s32, .s16⟩ .ds .gs ∧
    (State.reset.seg.get .ss).usable = true ∧ (State.reset.seg.get .cs).usable = true :=
  ⟨.inl ⟨by simp [h16], rfl⟩, .inr ⟨[], [], rfl, by simp⟩, .inr ⟨[.seg .fs], [.opSize], rfl, by simp⟩, by decide, by decide⟩

/-- EIP at the end of 16-bit code, and in 32-bit code. -/
theorem wit_NopCompletes : (State.reset.setEip 0xFFFF).pe = false ∧
    (∃ s : State, s.pe = true ∧ s.seg.cs.gran.getLsbD 2 = true ∧ s.eip = 0xFFFFFFFF) ∧
    ∃ s : State, s.pe = true ∧ s.seg.cs.gran.getLsbD 2 = false :=
  ⟨by decide, ⟨((prot .eax 0).setSeg .cs { State.reset.seg.cs with gran := 4 }).setEip 0xFFFFFFFF, rfl, by decide, rfl⟩,
    ⟨prot .eax 0, rfl, by decide⟩⟩

theorem wit_MovImmediate : byteViews.length = 8 ∧ (Reg8.bh, Reg.ebx, 8) ∈ byteViews := by decide

theorem wit_MovToOperand : edge.mem.wf = true ∧ RmReady edge h16 (RM.mem bx5 : RM Reg8) 1 ∧
    RmReady edge h16 (RM.mem bx4 : RM Reg) h16.os.bytes ∧ RmReady edge h16 (RM.reg .al : RM Reg8) 1 ∧
    RmReady edge h16 (RM.reg .esp : RM Reg) h16.os.bytes := ⟨rfl, edge_byte, edge_word, trivial, trivial⟩

theorem wit_MovFromOperand : RmReady edge h16 (RM.mem bx5 : RM Reg8) 1 ∧ RmReady edge h16 (RM.mem bx4 : RM Reg) h16.os.bytes :=
  ⟨edge_byte, edge_word⟩

theorem wit_MovMoffs : OperandSegment h16 .ds .ds ∧ OperandSegment hCs .ds .cs ∧ State.reset.mem.wf = true ∧ AddrReady State.reset (moffsAddr State.reset h16 0xFFFF) 1 ∧
    AddrReady State.reset (moffsAddr State.reset h66 0xFFFF) h66.os.bytes :=
  ⟨.inl ⟨by simp [h16], rfl⟩, .inr ⟨[], [], rfl, by simp⟩, rfl, open_ready rfl rfl rfl _, open_ready rfl rfl rfl _⟩

theorem wit_XorResult : edge.mem.wf = true ∧ RmReady edge h16 (RM.mem bx4 : RM Reg) h16.os.bytes := ⟨rfl, edge_word⟩

/-- Counts 0, 1, the width and the largest. -/
theorem wit_ShlResult : (0xE0 : Byte).toNat % 32 = 0 ∧ (0x21 : Byte).toNat % 32 = 1 ∧ (0x10 : Byte).toNat % 32 = h16.os.bits ∧
    (0xFF : Byte).toNat % 32 = 31 ∧ edge.mem.wf = true ∧ RmReady edge h16 (RM.mem bx4 : RM Reg) h16.os.bytes :=
  ⟨by decide, by decide, by decide, by decide, rfl, edge_word⟩

theorem wit_ShrResult : (0x20 : Byte).toNat % 32 = 0 ∧ (0x01 : Byte).toNat % 32 = 1 ∧ (0x50 : Byte).toNat % 32 = h16.os.bits ∧
    (0x1F : Byte).toNat % 32 = 31 ∧ edge.mem.wf = true ∧ RmReady edge h16 (RM.mem bx4 : RM Reg) h16.os.bytes :=
  ⟨by decide, by decide, by decide, by decide, rfl, edge_word⟩

/-- Real mode, and protected mode with the privilege level equal to IOPL. -/
theorem wit_OutCliCld : State.reset.pe = false ∧ ∃ s : State, s.pe = true ∧ s.cpl = 3 ∧ s.cpl ≤ s.eflags.iopl :=
  ⟨by decide, { user with eflags := Eflags.ofWord 0x3002 }, rfl, rfl, by decide⟩

theorem wit_MovsResult : State.reset.mem.wf = true ∧
    AddrReady State.reset (State.reset.linear (hdrSegment hCs .ds) (stringOffset hCs.as.bits State.reset .esi)) hCs.os.bytes ∧
    AddrReady State.reset (State.reset.linear .es (stringOffset hCs.as.bits State.reset .edi)) hCs.os.bytes :=
  ⟨rfl, open_ready rfl rfl rfl _, open_ready rfl rfl rfl _⟩

/-- No element to move, with DS unusable: the hypotheses do not ask for a segment. -/
theorem wit_RepMovsResult_zero : ∃ s : State, (s.reg hRep.as.bits .ecx).toNat = 0 ∧ (s.seg.get (hdrSegment hRep .ds)).usable = false :=
  ⟨State.reset.setSeg .ds { State.reset.seg.ds with usable := false }, by decide, rfl⟩

/-- Two bytes from FFFF0000H and FFFF0001H to 0 and 1, which do not overlap. -/
theorem wit_RepMovsResult : ∃ (s : State) (src dst : Nat → DWord), (s.reg hCs.as.bits .ecx).toNat = 2 ∧ s.mem.wf = true ∧
    src = stringAddr hCs.as.bits s (hdrSegment hCs .ds) .esi 1 ∧ dst = stringAddr hCs.as.bits s .es .edi 1 ∧
    (s.seg.get (hdrSegment hCs .ds)).usable = true ∧ s.seg.es.usable = true ∧
    (∀ k, k < 2 → Present s (src k) 1 ∧ Present s (dst k) 1) ∧
    ∀ i j x, i < 2 → j < 2 → within x (dst i) 1 →
      kindAt s.memMap x.toNat = .ram ∧ ¬ within x (src j) 1 ∧ (i ≠ j → ¬ within x (dst j) 1) := by
  refine ⟨real .ecx 2, _, _, by decide, rfl, rfl, rfl, by decide, by decide,
    fun k _ => ⟨open_present rfl rfl _ _, open_present rfl rfl _ _⟩, ?_⟩
  intro j k x hj hk hx
  have e : stringAddr hCs.as.bits (real .ecx 2) .es .edi 1 0 = 0 := by decide
  have f : stringAddr hCs.as.bits (real .ecx 2) .es .edi 1 1 = 1 := by decide
  have g : stringAddr hCs.as.bits (real .ecx 2) (hdrSegment hCs .ds) .esi 1 0 = 0xFFFF0000 := by decide
  have h : stringAddr hCs.as.bits (real .ecx 2) (hdrSegment hCs .ds) .esi 1 1 = 0xFFFF0001 := by decide
  refine ⟨rfl, ?_, ?_⟩
  · unfold within at *
    have cj : j = 0 ∨ j = 1 := by omega
    have ck : k = 0 ∨ k = 1 := by omega
    rcases cj with rfl | rfl <;> rcases ck with rfl | rfl <;> simp only [e, f, g, h] at * <;> bv_omega
  · intro hne
    unfold within at *
    have cj : j = 0 ∧ k = 1 ∨ j = 1 ∧ k = 0 := by omega
    rcases cj with ⟨rfl, rfl⟩ | ⟨rfl, rfl⟩ <;> simp only [e, f] at * <;> bv_omega

/-- The destination one byte above the source: the first byte spreads. -/
theorem wit_RepMovsResult_overlap : ∃ s : State, (s.reg h16.as.bits .ecx).toNat = 2 ∧ s.mem.wf = true ∧
    stringAddr h16.as.bits s .es .edi 1 0 = stringAddr h16.as.bits s .ds .esi 1 1 ∧
    copied s.memMap (stringAddr h16.as.bits s .ds .esi 1) (stringAddr h16.as.bits s .es .edi 1) 1 s.byteAt 2 2 = 0x5A ∧
    s.byteAt 1 = 0x6B :=
  ⟨put ((real .ecx 2).setReg 32 .edi 1) 0 [0x5A, 0x6B], by decide, by decide, by decide, by decide, by decide⟩

theorem wit_JmpNear : (∃ (rel : Byte) (d : DWord), d = rel.signExtend 32 ∧ rel = 0x80) ∧ (Instr.jmpRel h16 0xFFFF).wf false = true :=
  ⟨⟨0x80, _, rfl, rfl⟩, by decide⟩

theorem wit_JmpFarReal : dsBx.pe = false ∧ AddrReady dsBx (operandAddr dsBx h66 bx5) (h66.os.bytes + 2) :=
  ⟨by decide, open_ready rfl rfl rfl _⟩

/-- SP = 2: the second push wraps to the top of the stack segment. -/
theorem wit_CallFarReal : ∃ (s : State) (a1 a2 : DWord), s.pe = false ∧ s.ssLoaded = true ∧ s.mem.wf = true ∧
    AddrReady s (operandAddr s h16 bx5) (h16.os.bytes + 2) ∧
    s.linear .ss ((s.reg 16 .esp - BitVec.ofNat 16 h16.os.bytes).setWidth 32) = .ok a1 ∧ Present s a1 h16.os.bytes ∧
    s.linear .ss ((s.reg 16 .esp - BitVec.ofNat 16 (2 * h16.os.bytes)).setWidth 32) = .ok a2 ∧ Present s a2 h16.os.bytes ∧
    a1 = 0 ∧ a2 = 0xFFFE :=
  ⟨stacked.setReg 32 .esp 2, _, _, by decide, rfl, rfl, open_ready rfl rfl rfl _, rfl, open_present rfl rfl _ _, rfl,
    open_present rfl rfl _ _, by decide, by decide⟩

theorem wit_JnzBranches : State.reset.eflags.zf = false ∧ (State.reset.setZf true).eflags.zf = true := by decide

/-- Every write the rule allows: entering protected mode with paging, staying in it, staying in real mode. -/
theorem wit_WriteCr0 : ∀ s ∈ [real .eax 0x80000001, prot .eax 1, real .eax 0x10],
    (s.pe = false ∨ s.cpl = 0) ∧ ((s.reg 32 .eax).getLsbD 31 = true → (s.reg 32 .eax).getLsbD 0 = true) ∧
      (s.pe = true → (s.reg 32 .eax).getLsbD 0 = true) := by decide

/-- The mark before CR3 is written again: set, and set with CR3 written before. -/
theorem wit_WriteCr3 : Privileged State.reset ∧ State.reset.tlbMark = .clean ∧ (∃ s : State, Privileged s ∧ s.tlbMark = .undefined) ∧
    ∃ s : State, Privileged s ∧ s.tlbMark = .undefinedV0 :=
  ⟨.inl rfl, rfl, ⟨{ State.reset with tlbMark := .undefined }, .inl rfl, rfl⟩, ⟨{ State.reset with tlbMark := .undefinedV0 }, .inl rfl, rfl⟩⟩

theorem wit_ReadTestRegister : Privileged State.reset ∧ State.reset.trLayout.wf = true := ⟨.inl rfl, by decide⟩

theorem wit_TlbWriteCommand : ∃ s : State, CommandReady s 0xABCDEB40 ∧ s.reg 32 .eax = 0xABCDEB40 ∧
    (0xABCDEB40 : DWord).getLsbD s.trLayout.c = false ∧ PairsFormed s.trLayout 0xABCDEB40 ∧ s.tr7.ht = true ∧ s.tlbMark = .clean ∧
    s.tlbIndexTable = [] ∧
    ∀ b, b ≠ s.tr7.rep → ¬ TagIs s.trLayout (Tlb.entry s.tlb b (tlbIndex s.tlbIndexTable 0xABCDE)) 0xABCDEB40 :=
  ⟨staged.setReg 32 .eax 0xABCDEB40, ⟨.inl rfl, rfl, .inl rfl⟩, by decide, by decide, by unfold PairsFormed; decide, rfl, rfl, rfl,
    by unfold TagIs; decide⟩

/-- TR7 = 12345014H: block 1, while block 0 holds the tag. -/
theorem wit_TlbWriteCommand_duplicate : ∃ s : State, CommandReady s 0xABCDEB40 ∧ s.tr7.ht = true ∧
    ∃ b, b ≠ s.tr7.rep ∧ TagIs s.trLayout (Tlb.entry s.tlb b (tlbIndex s.tlbIndexTable 0xABCDE)) 0xABCDEB40 :=
  ⟨{ State.reset with tr7 := TR7.ofWord .generalKnowledge 0x12345014, tlb := Tlb.put State.reset.tlb 0 6 written },
    ⟨.inl rfl, rfl, .inl rfl⟩, rfl, 0, by decide, by unfold TagIs; decide⟩

/-- Under the mark, with CR3 written since, the write of the last entry that was not rewritten ends the mark, and of one of two does not. -/
theorem wit_TlbWriteCommand_mark : (∃ s t : State, CommandReady s 0xABCDEB40 ∧ s.tlbMark = .undefinedV0 ∧
      exec (.movTr6R h16 .eax) s = .next t ∧ t.tlbMark = .clean) ∧
    ∃ s t : State, CommandReady s 0xABCDEB40 ∧ s.tlbMark = .undefinedV0 ∧
      exec (.movTr6R h16 .eax) s = .next t ∧ t.tlbMark = .undefinedV0 :=
  ⟨⟨{ staged.setReg 32 .eax 0xABCDEB40 with
        tlbMark := .undefinedV0, tlb := Tlb.put (Quad.all (Oct.all { oneEntry with rewritten := true })) 0 6 oneEntry }, _,
      ⟨.inl rfl, rfl, .inr ⟨rfl, by decide⟩⟩, rfl, rfl, by decide⟩,
    ⟨{ staged.setReg 32 .eax 0xABCDEB40 with tlbMark := .undefinedV0 }, _, ⟨.inl rfl, rfl, .inr ⟨rfl, by decide⟩⟩, rfl, rfl, by decide⟩⟩

theorem wit_TlbLookupCommand_hit : ∃ s : State, CommandReady s 0xABCDEB41 ∧ s.reg 32 .eax = 0xABCDEB41 ∧
    (0xABCDEB41 : DWord).getLsbD s.trLayout.c = true ∧ (0xABCDEB41 : DWord).getLsbD s.trLayout.v = true ∧
    PairsFormed s.trLayout 0xABCDEB41 ∧ TagIs s.trLayout (Tlb.entry s.tlb 0 6) 0xABCDEB41 ∧
    ∀ c j, TagIs s.trLayout (Tlb.entry s.tlb c j) 0xABCDEB41 → c = 0 ∧ j = 6 :=
  ⟨{ real .eax 0xABCDEB41 with tlb := Tlb.put State.reset.tlb 0 6 written }, ⟨.inl rfl, rfl, .inl rfl⟩, by decide, by decide, by decide,
    by unfold PairsFormed; decide, by unfold TagIs; decide, by unfold TagIs; decide⟩

/-- A lookup with V = 0 once every entry has been written. -/
theorem wit_TlbLookupCommand_miss : ∃ s : State, CommandReady s 0xABCDE341 ∧ (0xABCDE341 : DWord).getLsbD s.trLayout.c = true ∧
    PairsFormed s.trLayout 0xABCDE341 ∧ (∀ b i, (Tlb.entry s.tlb b i).written = true) ∧
    ∀ b i, ¬ TagIs s.trLayout (Tlb.entry s.tlb b i) 0xABCDE341 :=
  ⟨{ real .eax 0xABCDE341 with tlb := Quad.all (Oct.all written) }, ⟨.inl rfl, rfl, .inl rfl⟩, by decide, by unfold PairsFormed; decide,
    by decide, by unfold TagIs; decide⟩

theorem wit_TlbWriteThenLookup : ∃ s t : State, s.trLayout.wf = true ∧ s.tlbMark = .clean ∧ s.reg 32 .eax = 0xABCDEB40 ∧
    s.reg 32 .ebx = 0xABCDEB41 ∧ (0xABCDEB40 : DWord).getLsbD s.trLayout.c = false ∧ (0xABCDEB41 : DWord).getLsbD s.trLayout.c = true ∧
    (∀ k, k ≠ s.trLayout.c.val → (0xABCDEB41 : DWord).getLsbD k = (0xABCDEB40 : DWord).getLsbD k) ∧
    (0xABCDEB40 : DWord).getLsbD s.trLayout.v = true ∧ PairsFormed s.trLayout 0xABCDEB40 ∧ Privileged s ∧
    (∀ b i, ¬ TagIs s.trLayout (Tlb.entry s.tlb b i) 0xABCDEB40) ∧ exec (.movTr6R h16 .eax) s = .next t :=
  ⟨(staged.setReg 32 .eax 0xABCDEB40).setReg 32 .ebx 0xABCDEB41, _, by decide, rfl, by decide, by decide, by decide, by decide,
    fun k hk => (Nat.lt_or_ge k 32).elim
      ((by decide : ∀ k, k < 32 → k ≠ 0 → (0xABCDEB41 : DWord).getLsbD k = (0xABCDEB40 : DWord).getLsbD k) k · hk)
      (fun h => by rw [BitVec.getLsbD_of_ge _ _ h, BitVec.getLsbD_of_ge _ _ h]),
    by decide, by unfold PairsFormed; decide, .inl rfl, by unfold TagIs; decide, rfl⟩

theorem wit_LoadTables : Privileged dsBx ∧ AddrReady dsBx (operandAddr dsBx h16 bx5) 6 := ⟨.inl rfl, open_ready rfl rfl rfl _⟩

/-- The GDT limit ends at the last byte of the descriptor. -/
theorem wit_LtrLoads : ∃ s : State, s.pe = true ∧ s.cpl = 0 ∧ s.mem.wf = true ∧ rmValue 16 s h16 (.reg .ebx) = 0x38 ∧
    (selOffset 0x38).toNat + 7 = s.gdtr.limit.toNat ∧ Present s (s.gdtAddr 0x38) 8 ∧
    (s.byteAt (s.gdtAddr 0x38 + 5)).getLsbD 7 = true ∧ (s.byteAt (s.gdtAddr 0x38 + 5)).extractLsb' 0 5 = 9#5 :=
  ⟨put (prot .ebx 0x38) 0x103D [0x89], rfl, rfl, by decide, by decide, by decide, open_present rfl rfl _ _, by decide, by decide⟩

theorem wit_LarReports : selNull 3 = true ∧ (selTable (prot .ebx 0x40) 0x40).2 < (selOffset 0x40).toNat + 7 ∧
    selNull 0x38 = false ∧ (selOffset 0x38).toNat + 7 = (selTable (prot .ebx 0x38) 0x38).2 ∧
    Present (prot .ebx 0x38) ((selTable (prot .ebx 0x38) 0x38).1 + selOffset 0x38 + 4) 4 ∧
    larAccepts (prot .ebx 0x38) 0x38 0x00008900 = true ∧ larAccepts (prot .ebx 0x38) 0x38 0x00008600 = false :=
  ⟨by decide, by decide, by decide, by decide, open_present rfl rfl _ _, by decide, by decide⟩

theorem wit_SegmentLoadReal : dsBx.pe = false ∧ RmReady dsBx h16 (RM.mem bx5 : RM Reg) 2 := ⟨by decide, open_ready rfl rfl rfl _⟩

theorem wit_SegmentLoadProtected : (prot .ebx 0x38).pe = true ∧ (prot .ebx 0x38).gdtrLoaded = true ∧ selNull 3 = true ∧
    GdtEntry (prot .ebx 0x38) 0x38 ∧ segmentOk .ss 0x92 0 0 = true ∧ segmentOk .ds 0x93 0 0 = true ∧ segmentOk .fs 0x9A 0 0 = true ∧
    (0x92 : Byte).getLsbD 0 = false ∧ (0x93 : Byte).getLsbD 0 = true :=
  ⟨by decide, rfl, by decide, wit_gdtEntry, by decide, by decide, by decide, by decide, by decide⟩

/-- `lidt` and `lgdt` of a pword that is not what the register holds. -/
def pwords : State := put dsBx 0x101D [0x17, 0x00, 0x78, 0x56, 0x34, 0x12]

theorem wit_SystemRegistersWrittenByTheirLoads :
    (∃ t, exec (.lgdt h16 bx5) pwords = .next t ∧ t.gdtr ≠ pwords.gdtr) ∧
    (∃ t, exec (.lidt h16 bx5) pwords = .next t ∧ t.idtr ≠ pwords.idtr) ∧
    (∃ s t, exec (.ltr h16 (.reg .ebx)) s = .next t ∧ t.tr ≠ s.tr) ∧
    (∃ t, exec (.movCr0R h16 .eax) (real .eax 1) = .next t ∧ t.cr0 ≠ (real .eax 1).cr0) ∧
    (∃ t, exec (.movCr3R h16 .eax) (real .eax 1) = .next t ∧ t.cr3 ≠ (real .eax 1).cr3) ∧
    (∃ s t, exec (.movTr6R h16 .eax) s = .next t ∧ t.tr6 ≠ s.tr6 ∧ t.tlb ≠ s.tlb) ∧
    (∃ t, exec (.movTr7R h16 .eax) (real .eax 0x10) = .next t ∧ t.tr7 ≠ (real .eax 0x10).tr7) ∧
    (∃ t, exec (.outImm8Al h16 0) State.reset = .next t ∧ t.ports ≠ State.reset.ports) ∧
    (∃ t, exec (.jmpFar h16 0 1) State.reset = .next t ∧ t.seg.cs ≠ State.reset.seg.cs) ∧
    ∃ t, exec (.movSregRm h16 .gs (.reg .eax)) (real .eax 1) = .next t ∧ t.seg.gs ≠ (real .eax 1).seg.gs :=
  ⟨⟨_, rfl, by decide⟩, ⟨_, rfl, by decide⟩, ⟨put (prot .ebx 0x38) 0x103D [0x89], _, rfl, by decide⟩, ⟨_, rfl, by decide⟩,
    ⟨_, rfl, by decide⟩, ⟨staged.setReg 32 .eax 0xABCDEB40, _, rfl, by decide, by decide⟩, ⟨_, rfl, by decide⟩, ⟨_, rfl, by decide⟩,
    ⟨_, rfl, by decide⟩, ⟨_, rfl, by decide⟩⟩

theorem wit_SystemFlagsKept : (∃ s t, exec (.cli h16) s = .next t ∧ t.eflags.ifl ≠ s.eflags.ifl) ∧
    ∃ s t, exec (.cld h16) s = .next t ∧ t.eflags.df ≠ s.eflags.df :=
  ⟨⟨State.reset.setEflags (Eflags.ofWord 0x202), _, rfl, by decide⟩, ⟨State.reset.setEflags (Eflags.ofWord 0x402), _, rfl, by decide⟩⟩

theorem wit_ProtectedModeStays : ∃ s t : State, s.inputs.reset = none ∧ s.pe = true ∧ step s = .next t :=
  ⟨code (prot .eax 1) [0x0F, 0x22, 0xC0], _, rfl, rfl, rfl⟩

theorem wit_invariants : ∃ s t : State, s.mem.wf = true ∧ PagingNeedsPe s ∧ CplZero s ∧ UnwrittenInvalid s ∧ CodeSegmentShape s ∧
    step s = .next t ∧ t.mem ≠ s.mem :=
  ⟨code (real .eax 0x2110) [0xA3, 0x04, 0x00], _, by decide, fun h => absurd h (by decide), rfl, by unfold UnwrittenInvalid; decide,
    ⟨.inl (by decide), by decide, by decide⟩, rfl, by decide⟩

end Sys2Proof.Tests
end

/-! # Effects of instructions

What executing an instruction can do, said once: at most one special update of its own, and otherwise a quiet change of
general registers, EIP, the arithmetic flags and memory. The invariants and the tables of writers are read off from this. -/

namespace Sys2Proof.Machine

open Sys2Proof

/-! ## Quiet changes -/

/-- From `s` to `t` only general registers, EIP, the six arithmetic flags, memory and the counter of free values have changed, and memory
is still canonical if it was. -/
structure Quiet (s t : State) : Prop where
  sys : t.sys = s.sys
  flags : SameControlFlags s.eflags t.eflags
  mem : s.mem.wf = true → t.mem.wf = true

theorem SameControlFlags.refl (f : Eflags) : SameControlFlags f f := ⟨rfl, rfl, rfl, rfl, rfl, rfl, rfl⟩

theorem SameControlFlags.trans {f g k : Eflags} (h : SameControlFlags f g) (h' : SameControlFlags g k) : SameControlFlags f k := by
  obtain ⟨htf, hif, hdf, hiopl, hnt, hrf, hvm⟩ := h
  obtain ⟨htf', hif', hdf', hiopl', hnt', hrf', hvm'⟩ := h'
  exact ⟨htf'.trans htf, hif'.trans hif, hdf'.trans hdf, hiopl'.trans hiopl, hnt'.trans hnt, hrf'.trans hrf, hvm'.trans hvm⟩

namespace Quiet

variable {s t u : State}

theorem refl (s : State) : Quiet s s := ⟨rfl, .refl _, id⟩

theorem trans (h : Quiet s t) (h' : Quiet t u) : Quiet s u :=
  ⟨h'.sys.trans h.sys, h.flags.trans h'.flags, h'.mem ∘ h.mem⟩

theorem setReg {w : Nat} {r : Reg} {v : BitVec w} (h : Quiet s t) : Quiet s (t.setReg w r v) := ⟨h.sys, h.flags, h.mem⟩
theorem setReg8 {r : Reg8} {v : Byte} (h : Quiet s t) : Quiet s (t.setReg8 r v) := ⟨h.sys, h.flags, h.mem⟩
theorem setEip {v : DWord} (h : Quiet s t) : Quiet s (t.setEip v) := ⟨h.sys, h.flags, h.mem⟩
theorem advance {n : Nat} (h : Quiet s t) : Quiet s (t.advance n) := ⟨h.sys, h.flags, h.mem⟩
theorem drawn (h : Quiet s t) : Quiet s t.drawn := ⟨h.sys, h.flags, h.mem⟩

theorem setEflags {v : Eflags} (h : Quiet s t) (hv : SameControlFlags t.eflags v) : Quiet s (t.setEflags v) :=
  ⟨h.sys, h.flags.trans hv, h.mem⟩

theorem newFlags {f : DWord → Eflags → Eflags} (h : Quiet s t) (hf : ∀ x e, SameControlFlags e (f x e)) : Quiet s (t.newFlags f) :=
  ⟨h.sys, h.flags.trans (hf _ _), h.mem⟩

theorem setZf {b : Bool} (h : Quiet s t) : Quiet s (t.setZf b) := h.setEflags ⟨rfl, rfl, rfl, rfl, rfl, rfl, rfl⟩

theorem endSpecial {n : Nat} (h : Quiet s t) : Quiet s (t.endSpecial n) := (h.newFlags sameControlFlags_undefined).advance

/-- A quiet change and the state of a REP MOVS are independent of each other. -/
theorem setRepeat {r : Option Repeat} (h : Quiet s t) : Quiet (s.setRepeat r) (t.setRepeat r) :=
  ⟨congrArg (fun y : SystemView => { y with repeating := r }) h.sys, h.flags, h.mem⟩

/-- A quiet change and the end of a far transfer are independent of each other, EIP apart. -/
theorem farReal {off : DWord} {sel : Word16} (h : Quiet s t) : Quiet (loadCsReal sel s).flushPrefetch (farReal off sel t) :=
  ⟨congrArg (fun y : SystemView =>
    { y with seg := y.seg.set .cs { y.seg.get .cs with sel := sel, base := sel.setWidth 32 * 16 }, prefetchStale := false }) h.sys,
    h.flags, h.mem⟩

end Quiet

theorem DataStep.quiet {s t : State} (h : DataStep s t) : Quiet s t := by
  obtain ⟨g, m, rfl, hm⟩ := h
  exact ⟨rfl, .refl _, hm⟩

/-! ## Special updates -/

/-- The far transfers (40_control_transfers.md R132 to R134). -/
inductive IsFar : Instr → Prop
  | jmp (h : Hdr) (off : DWord) (sel : Word16) : IsFar (.jmpFar h off sel)
  | jmpMem (h : Hdr) (m : Mem) : IsFar (.jmpFarMem h m)
  | call (h : Hdr) (off : DWord) (sel : Word16) : IsFar (.callFar h off sel)
  | callMem (h : Hdr) (m : Mem) : IsFar (.callFarMem h m)

/-- What an instruction begun in `s` may write besides what a quiet change writes: the column of writers of 10_state.md R22 to R32. -/
inductive Special (s : State) : Instr → State → Prop
  | nothing (i : Instr) : Special s i s
  | shutDown (i : Instr) (hl : s.idtr.limit = 0) : Special s i { s with run := .shutdown }
  | halted (h : Hdr) : Special s (.hlt h) { s with run := .halted }
  | ifCleared (h : Hdr) : Special s (.cli h) (s.setEflags { s.eflags with ifl := false })
  | dfCleared (h : Hdr) : Special s (.cld h) (s.setEflags { s.eflags with df := false })
  | portWritten (h : Hdr) (port : Byte) : Special s (.outImm8Al h port) (s.portWrite (port.setWidth 16) (s.reg8 .al))
  | repeats (h : Hdr) (wide : Bool) (r : Option Repeat) : Special s (.repMovs h wide) (s.setRepeat r)
  | jumped (i : Instr) (hi : isJmp i = true) : Special s i s.flushPrefetch
  | csLoaded (i : Instr) (sel : Word16) (hi : IsFar i) (hp : s.pe = false) : Special s i (loadCsReal sel s).flushPrefetch
  | segLoaded (h : Hdr) (sr : SReg) (rm : RM Reg) (v : SegReg) (hsr : sr ≠ .cs) :
      Special s (.movSregRm h sr rm) (noteSsLoad sr (s.setSeg sr v))
  | gdtrLoaded (h : Hdr) (m : Mem) (g : TableReg) : Special s (.lgdt h m) { s with gdtr := g, gdtrLoaded := true }
  | idtrLoaded (h : Hdr) (m : Mem) (g : TableReg) : Special s (.lidt h m) { s with idtr := g }
  | trLoaded (h : Hdr) (rm : RM Reg) (g : SysSeg) : Special s (.ltr h rm) { s with tr := g }
  | cr0Written (h : Hdr) (r : Reg) (hp : Privileged s)
      (hpg : (s.reg 32 r).getLsbD 31 = true → (s.reg 32 r).getLsbD 0 = true) (hpe : s.pe = true → (s.reg 32 r).getLsbD 0 = true) :
      Special s (.movCr0R h r)
        { s with cr0 := s.reg 32 r, cpl := cplAfterCr0 s (s.reg 32 r), prefetchStale := staleAfterCr0 s (s.reg 32 r) }
  | cr3Written (h : Hdr) (r : Reg) : Special s (.movCr3R h r) (writeCr3 s (s.reg 32 r))
  | tr7Written (h : Hdr) (r : Reg) (x : TR7) : Special s (.movTr7R h r) { s with tr7 := x }
  | tlbWritten (h : Hdr) (r : Reg) (x : TR6) (b : BitVec 2) (i : BitVec 3) (e : TlbEntry) (m : TlbMark) (he : e.written = true) :
      Special s (.movTr6R h r) { s with tr6 := x, tlb := Tlb.put s.tlb b i e, tlbMark := m }
  | tlbSearched (h : Hdr) (r : Reg) (x : TR6) (y : TR7) : Special s (.movTr6R h r) { s with tr6 := x, tr7 := y }

/-- What instruction `i` begun in `s` can leave: one special update, then a quiet change. -/
def Effect (i : Instr) (s t : State) : Prop := ∃ u, Special s i u ∧ Quiet u t

variable {s t u : State} {i : Instr}

theorem Quiet.effect (h : Quiet s t) : Effect i s t := ⟨s, .nothing i, h⟩

theorem Special.effect (h : Special s i t) : Effect i s t := ⟨t, h, .refl t⟩

theorem Effect.quiet (h : Effect i s t) (h' : Quiet t u) : Effect i s u := by
  obtain ⟨v, hv, hq⟩ := h
  exact ⟨v, hv, hq.trans h'⟩

/-- An instruction that ends with its own state or with the shutdown of an exception. -/
theorem effect_of_conclude {r : Res State} (h : conclude s r = .next t) (ok : r = .ok t → Effect i s t) : Effect i s t := by
  obtain e | ⟨-, hl, rfl⟩ := conclude_next h
  · exact ok e
  · exact (Special.shutDown i hl).effect

/-- An operation that ends with a function of the state it has reached. -/
theorem effect_of_map {r : Res State} {f : State → State} (h : conclude s (r.map f) = .next t)
    (ok : ∀ u, r = .ok u → Effect i s (f u)) : Effect i s t :=
  effect_of_conclude h fun e => by
    obtain ⟨u, hu, rfl⟩ := res_map_ok e
    exact ok u hu

/-- An operation that changes registers, flags and memory only, and then goes on to the next instruction. -/
theorem effect_of_quiet_advance {r : Res State} {n : Nat} (h : conclude s (r.map fun t => t.advance n) = .next t)
    (ok : ∀ u, r = .ok u → Quiet s u) : Effect i s t :=
  effect_of_map h fun u hu => (ok u hu).advance.effect

/-- A value computed first, and a quiet change made with it. -/
theorem effect_of_quiet_map {α : Type} {r : Res α} {f : α → State} (h : conclude s (r.map f) = .next t)
    (ok : ∀ a, Quiet s (f a)) : Effect i s t :=
  effect_of_conclude h fun e => by
    obtain ⟨a, -, rfl⟩ := res_map_ok e
    exact (ok a).effect

theorem effect_of_next (h : Host.Outcome.next (φ := Fault) (ρ := Refusal) u = .next t) (ok : Effect i s u) : Effect i s t := by
  obtain rfl : u = t := by simpa using h
  exact ok

/-! ## NOP and MOV -/

theorem storeTo_quiet {w : Nat} {a : Res DWord} {v : BitVec w} (h : storeTo w s a v = .ok t) : Quiet s t := by
  obtain ⟨l, -, h⟩ := res_bind_ok h
  exact (DataStep.ofWriteMem h).quiet

theorem execNop_effect {h : Hdr} (e : execNop h s = .next t) : Effect (.nop h) s t :=
  effect_of_next e (Quiet.refl s).advance.effect

theorem execMovR8Imm8_effect {h : Hdr} {r : Reg8} {imm : Byte} (e : execMovR8Imm8 h r imm s = .next t) :
    Effect (.movR8Imm8 h r imm) s t :=
  effect_of_next e (Quiet.refl s).setReg8.advance.effect

theorem execMovRImm_effect {h : Hdr} {r : Reg} {imm : DWord} (e : execMovRImm h r imm s = .next t) : Effect (.movRImm h r imm) s t :=
  effect_of_next e (Quiet.refl s).setReg.advance.effect

theorem execMovRm8Imm8_effect {h : Hdr} {rm : RM Reg8} {imm : Byte} (e : execMovRm8Imm8 h rm imm s = .next t) :
    Effect (.movRm8Imm8 h rm imm) s t :=
  effect_of_quiet_advance e fun _ hu => (writeRm8_frame hu).quiet

theorem execMovRmImm_effect {h : Hdr} {rm : RM Reg} {imm : DWord} (e : execMovRmImm h rm imm s = .next t) :
    Effect (.movRmImm h rm imm) s t :=
  effect_of_quiet_advance e fun _ hu => (writeRm_frame hu).quiet

theorem execMovRm8R8_effect {h : Hdr} {rm : RM Reg8} {r : Reg8} (e : execMovRm8R8 h rm r s = .next t) : Effect (.movRm8R8 h rm r) s t :=
  effect_of_quiet_advance e fun _ hu => (writeRm8_frame hu).quiet

theorem execMovRmR_effect {h : Hdr} {rm : RM Reg} {r : Reg} (e : execMovRmR h rm r s = .next t) : Effect (.movRmR h rm r) s t :=
  effect_of_quiet_advance e fun _ hu => (writeRm_frame hu).quiet

theorem execMovR8Rm8_effect {h : Hdr} {r : Reg8} {rm : RM Reg8} (e : execMovR8Rm8 h r rm s = .next t) : Effect (.movR8Rm8 h r rm) s t :=
  effect_of_quiet_map e fun _ => (Quiet.refl s).setReg8.advance

theorem execMovRRm_effect {h : Hdr} {r : Reg} {rm : RM Reg} (e : execMovRRm h r rm s = .next t) : Effect (.movRRm h r rm) s t :=
  effect_of_quiet_map e fun _ => (Quiet.refl s).setReg.advance

theorem execMovAlMoffs_effect {h : Hdr} {off : DWord} (e : execMovAlMoffs h off s = .next t) : Effect (.movAlMoffs h off) s t :=
  effect_of_quiet_map e fun _ => (Quiet.refl s).setReg8.advance

theorem execMovAxMoffs_effect {h : Hdr} {off : DWord} (e : execMovAxMoffs h off s = .next t) : Effect (.movAxMoffs h off) s t :=
  effect_of_quiet_map e fun _ => (Quiet.refl s).setReg.advance

theorem execMovMoffsAl_effect {h : Hdr} {off : DWord} (e : execMovMoffsAl h off s = .next t) : Effect (.movMoffsAl h off) s t :=
  effect_of_quiet_advance e fun _ hu => storeTo_quiet hu

theorem execMovMoffsAx_effect {h : Hdr} {off : DWord} (e : execMovMoffsAx h off s = .next t) : Effect (.movMoffsAx h off) s t :=
  effect_of_quiet_advance e fun _ hu => storeTo_quiet hu

/-! ## XOR, INC, DEC, SHL, SHR -/

theorem sameControlFlags_xor {w : Nat} (r : BitVec w) (x : DWord) (f : Eflags) : SameControlFlags f (xorFlags x r f) :=
  sameControlFlags_szp r f

theorem sameControlFlags_shl {w : Nat} (a : BitVec w) (n : Nat) (x : DWord) (f : Eflags) : SameControlFlags f (shlFlags x a n f) :=
  sameControlFlags_szp (a <<< n) f

theorem sameControlFlags_shr {w : Nat} (a : BitVec w) (n : Nat) (x : DWord) (f : Eflags) : SameControlFlags f (shrFlags x a n f) :=
  sameControlFlags_szp (a >>> n) f

theorem sameControlFlags_inc {w : Nat} (a : BitVec w) (f : Eflags) : SameControlFlags f (incFlags a f) := sameControlFlags_szp (a + 1) f

theorem sameControlFlags_dec {w : Nat} (a : BitVec w) (f : Eflags) : SameControlFlags f (decFlags a f) := sameControlFlags_szp (a - 1) f

/-- An operand read, a result written back and flags set from it: XOR, SHL and SHR. -/
theorem readWriteFlags_quiet {w : Nat} {h : Hdr} {rm : RM Reg} {f : BitVec w → BitVec w} {g : BitVec w → DWord → Eflags → Eflags}
    (hg : ∀ a x e, SameControlFlags e (g a x e))
    (e : ((readRm w s h rm).bind fun a => (writeRm w s h rm (f a)).map fun t => t.newFlags (g a)) = .ok t) : Quiet s t := by
  obtain ⟨a, -, e⟩ := res_bind_ok e
  obtain ⟨u, hu, rfl⟩ := res_map_ok e
  exact (writeRm_frame hu).quiet.newFlags (hg a)

theorem xorInto_quiet {w : Nat} {h : Hdr} {rm : RM Reg} {b : BitVec w} (e : xorInto w s h rm b = .ok t) : Quiet s t :=
  readWriteFlags_quiet (fun a => sameControlFlags_xor (a ^^^ b)) e

theorem shlBy_quiet {w : Nat} {h : Hdr} {rm : RM Reg} {n : Nat} (e : shlBy w s h rm n = .ok t) : Quiet s t := by
  unfold shlBy at e
  split at e
  · obtain rfl : s = t := by simpa using e
    exact .refl s
  · exact readWriteFlags_quiet (fun a => sameControlFlags_shl a n) e

theorem shrBy_quiet {w : Nat} {h : Hdr} {rm : RM Reg} {n : Nat} (e : shrBy w s h rm n = .ok t) : Quiet s t := by
  unfold shrBy at e
  split at e
  · obtain rfl : s = t := by simpa using e
    exact .refl s
  · exact readWriteFlags_quiet (fun a => sameControlFlags_shr a n) e

theorem execXorAlImm8_effect {h : Hdr} {imm : Byte} (e : execXorAlImm8 h imm s = .next t) : Effect (.xorAlImm8 h imm) s t :=
  effect_of_next e ((Quiet.refl s).setReg8.newFlags (sameControlFlags_xor _)).advance.effect

theorem execXorRmR_effect {h : Hdr} {rm : RM Reg} {r : Reg} (e : execXorRmR h rm r s = .next t) : Effect (.xorRmR h rm r) s t :=
  effect_of_quiet_advance e fun _ hu => xorInto_quiet hu

theorem execXorRRm_effect {h : Hdr} {r : Reg} {rm : RM Reg} (e : execXorRRm h r rm s = .next t) : Effect (.xorRRm h r rm) s t :=
  effect_of_conclude e fun e => by
    obtain ⟨b, -, e⟩ := res_bind_ok e
    obtain ⟨u, hu, rfl⟩ := res_map_ok e
    exact (xorInto_quiet hu).advance.effect

theorem execIncR_effect {h : Hdr} {r : Reg} (e : execIncR h r s = .next t) : Effect (.incR h r) s t :=
  effect_of_next e ((Quiet.refl s).setReg.setEflags (sameControlFlags_inc _ _)).advance.effect

theorem execDecR_effect {h : Hdr} {r : Reg} (e : execDecR h r s = .next t) : Effect (.decR h r) s t :=
  effect_of_next e ((Quiet.refl s).setReg.setEflags (sameControlFlags_dec _ _)).advance.effect

theorem execShlRmImm8_effect {h : Hdr} {rm : RM Reg} {imm : Byte} (e : execShlRmImm8 h rm imm s = .next t) :
    Effect (.shlRmImm8 h rm imm) s t :=
  effect_of_quiet_advance e fun _ hu => shlBy_quiet hu

theorem execShrRm1_effect {h : Hdr} {rm : RM Reg} (e : execShrRm1 h rm s = .next t) : Effect (.shrRm1 h rm) s t :=
  effect_of_quiet_advance e fun _ hu => shrBy_quiet hu

theorem execShrRmImm8_effect {h : Hdr} {rm : RM Reg} {imm : Byte} (e : execShrRmImm8 h rm imm s = .next t) :
    Effect (.shrRmImm8 h rm imm) s t :=
  effect_of_quiet_advance e fun _ hu => shrBy_quiet hu

/-! ## OUT, CLI, CLD -/

/-- A guard that a result has passed. -/
theorem guard_ok {α : Type} {p : Prop} [Decidable p] {x : Stop} {r : Res α} {a : α} (h : (if p then .error x else r) = .ok a) :
    ¬ p ∧ r = .ok a := by
  split at h
  · simp at h
  · next hp => exact ⟨hp, h⟩

theorem execOutImm8Al_effect {h : Hdr} {port : Byte} (e : execOutImm8Al h port s = .next t) : Effect (.outImm8Al h port) s t :=
  effect_of_conclude e fun e => by
    obtain ⟨-, ⟨⟩⟩ := guard_ok e
    exact (Special.portWritten h port).effect.quiet (Quiet.refl _).advance

theorem execCli_effect {h : Hdr} (e : execCli h s = .next t) : Effect (.cli h) s t :=
  effect_of_conclude e fun e => by
    obtain ⟨-, ⟨⟩⟩ := guard_ok e
    exact (Special.ifCleared h).effect.quiet (Quiet.refl _).advance

theorem execCld_effect {h : Hdr} (e : execCld h s = .next t) : Effect (.cld h) s t :=
  effect_of_next e ((Special.dfCleared h).effect.quiet (Quiet.refl _).advance)

/-! ## MOVS -/

theorem movsOne_quiet {h : Hdr} {n : Nat} (e : movsOne h n s = .ok t) : Quiet s t := by
  obtain ⟨a, -, e⟩ := res_bind_ok e
  obtain ⟨bs, -, e⟩ := res_bind_ok e
  obtain ⟨b, -, e⟩ := res_bind_ok e
  obtain ⟨u, hu, rfl⟩ := res_map_ok e
  exact (DataStep.ofWriteBytes hu).quiet.setReg.setReg

theorem repAfter_effect {h : Hdr} {wide : Bool} (hq : Quiet s u) : Effect (.repMovs h wide) s (repAfter h wide u) := by
  unfold repAfter
  split
  · exact (Special.repeats h wide none).effect.quiet hq.setRepeat.advance
  · exact (Special.repeats h wide _).effect.quiet hq.setRepeat

theorem execMovsB_effect {h : Hdr} (e : execMovsB h s = .next t) : Effect (.movsB h) s t :=
  effect_of_quiet_advance e fun _ hu => movsOne_quiet hu

theorem execMovsW_effect {h : Hdr} (e : execMovsW h s = .next t) : Effect (.movsW h) s t :=
  effect_of_quiet_advance e fun _ hu => movsOne_quiet hu

theorem execRepMovs_effect {h : Hdr} {wide : Bool} (e : execRepMovs h wide s = .next t) : Effect (.repMovs h wide) s t :=
  effect_of_map e fun u hu => by
    split at hu
    · obtain rfl : s = u := by simpa using hu
      exact repAfter_effect (.refl s)
    · obtain ⟨v, hv, rfl⟩ := res_map_ok hu
      exact repAfter_effect (movsOne_quiet hv).setReg

/-! ## Control transfers -/

/-- A far transfer in protected mode never goes through (R132, R134, R139). -/
theorem farProtected_ne_ok (sel : Word16) (s t : State) : farProtected sel s ≠ .ok t := by
  intro h
  unfold farProtected refuse at h
  obtain ⟨-, h⟩ := guard_ok h
  split at h
  · obtain ⟨a, -, h⟩ := res_bind_ok h
    split at h <;> simp at h
  · simp at h

theorem jumpFar_ok {off : DWord} {sel : Word16} (h : jumpFar off sel s = .ok t) : s.pe = false ∧ t = farReal off sel s := by
  unfold jumpFar at h
  split at h
  · exact absurd h (farProtected_ne_ok sel s t)
  · next hp => exact ⟨by simpa using hp, by simpa using h.symm⟩

theorem jumpFar_effect {off : DWord} {sel : Word16} (hi : IsFar i) (h : jumpFar off sel s = .ok t) : Effect i s t := by
  obtain ⟨hp, rfl⟩ := jumpFar_ok h
  exact ⟨_, .csLoaded i sel hi hp, (Quiet.refl s).farReal⟩

theorem push_quiet {n v : Nat} (h : push n v s = .ok t) : Quiet s t := by
  obtain ⟨a, -, h⟩ := res_bind_ok h
  exact (Quiet.refl s).setReg.trans (DataStep.ofWriteMem h).quiet

theorem drawPadding_quiet (h : Hdr) (s : State) : Quiet s (drawPadding h s) := by
  unfold drawPadding
  split
  · exact .refl s
  · exact (Quiet.refl s).drawn

theorem callFar_effect {h : Hdr} {n : Nat} {off : DWord} {sel : Word16} (hi : IsFar i) (e : callFar h n off sel s = .ok t) :
    Effect i s t := by
  unfold callFar refuse at e
  split at e
  · exact absurd e (farProtected_ne_ok sel s t)
  · next hp =>
    obtain ⟨-, e⟩ := guard_ok e
    obtain ⟨u, hu, e⟩ := res_bind_ok e
    obtain ⟨v, hv, rfl⟩ := res_map_ok e
    have pushed : Quiet s v := ((drawPadding_quiet h s).trans (push_quiet hu)).trans (push_quiet hv)
    exact ⟨_, .csLoaded i sel hi (by simpa using hp), pushed.farReal⟩

theorem execJmpRel8_effect {h : Hdr} {rel : Byte} (e : execJmpRel8 h rel s = .next t) : Effect (.jmpRel8 h rel) s t :=
  effect_of_next e ((Special.jumped _ rfl).effect.quiet (Quiet.refl _).setEip)

theorem execJmpRel_effect {h : Hdr} {rel : DWord} (e : execJmpRel h rel s = .next t) : Effect (.jmpRel h rel) s t :=
  effect_of_next e ((Special.jumped _ rfl).effect.quiet (Quiet.refl _).setEip)

theorem execJmpFar_effect {h : Hdr} {off : DWord} {sel : Word16} (e : execJmpFar h off sel s = .next t) :
    Effect (.jmpFar h off sel) s t := by
  unfold execJmpFar at e
  split at e
  · exact effect_of_conclude e (jumpFar_effect (.jmp h off sel))
  · exact effect_of_conclude e (jumpFar_effect (.jmp h off sel))

theorem execJmpFarMem_effect {h : Hdr} {m : Mem} (e : execJmpFarMem h m s = .next t) : Effect (.jmpFarMem h m) s t :=
  effect_of_conclude e fun e => by
    obtain ⟨p, -, e⟩ := res_bind_ok e
    exact jumpFar_effect (.jmpMem h m) e

theorem execCallFar_effect {h : Hdr} {off : DWord} {sel : Word16} (e : execCallFar h off sel s = .next t) :
    Effect (.callFar h off sel) s t := by
  unfold execCallFar at e
  split at e
  · exact effect_of_conclude e (callFar_effect (.call h off sel))
  · exact effect_of_conclude e (callFar_effect (.call h off sel))

theorem execCallFarMem_effect {h : Hdr} {m : Mem} (e : execCallFarMem h m s = .next t) : Effect (.callFarMem h m) s t :=
  effect_of_conclude e fun e => by
    obtain ⟨p, -, e⟩ := res_bind_ok e
    exact callFar_effect (.callMem h m) e

theorem execJnzRel8_effect {h : Hdr} {rel : Byte} (e : execJnzRel8 h rel s = .next t) : Effect (.jnzRel8 h rel) s t := by
  unfold execJnzRel8 at e
  split at e
  · exact effect_of_next e (Quiet.refl s).advance.effect
  · exact effect_of_next e (Quiet.refl s).setEip.effect

theorem execHlt_effect {h : Hdr} (e : execHlt h s = .next t) : Effect (.hlt h) s t :=
  effect_of_conclude e fun e => by
    obtain ⟨_, -, rfl⟩ := res_map_ok e
    exact (Special.halted h).effect.quiet ⟨rfl, .refl _, id⟩

/-! ## Segment loads -/

theorem markAccessed_quiet {a : DWord} {d : Desc} (h : markAccessed a d s = .ok t) : Quiet s t := by
  unfold markAccessed at h
  split at h
  · obtain rfl : s = t := by simpa using h
    exact .refl s
  · exact (DataStep.ofWriteByte h).quiet

theorem noteSsLoad_of_ne {sr : SReg} (h : sr ≠ .ss) (s : State) : noteSsLoad sr s = s := if_neg h

theorem loadSegProtected_effect {h : Hdr} {sr : SReg} {rm : RM Reg} {sel : Word16} (hsr : sr ≠ .cs)
    (e : loadSegProtected sr sel s = .ok t) : Effect (.movSregRm h sr rm) s t := by
  unfold loadSegProtected refuse raise at e
  obtain ⟨-, e⟩ := guard_ok e
  split at e
  · obtain ⟨hss, e⟩ := guard_ok e
    obtain rfl : loadSegNull sr sel s = t := by simpa using e
    have loaded := Special.segLoaded (s := s) h sr rm { s.seg.get sr with sel := sel, usable := false } hsr
    rw [noteSsLoad_of_ne hss] at loaded
    exact loaded.effect
  · obtain ⟨-, e⟩ := guard_ok e
    split at e
    · obtain ⟨d, -, e⟩ := res_bind_ok e
      split at e
      · exact (Special.segLoaded h sr rm _ hsr).effect.quiet (markAccessed_quiet e)
      · simp [refuse] at e
    · simp at e

theorem execMovSregRm_effect {h : Hdr} {sr : SReg} {rm : RM Reg} (e : execMovSregRm h sr rm s = .next t) :
    Effect (.movSregRm h sr rm) s t :=
  effect_of_conclude e fun e => by
    obtain ⟨hsr, e⟩ := guard_ok e
    obtain ⟨u, hu, rfl⟩ := res_map_ok e
    obtain ⟨sel, -, hu⟩ := res_bind_ok hu
    refine Effect.quiet ?_ (Quiet.refl u).advance
    split at hu
    · exact loadSegProtected_effect hsr hu
    · obtain rfl : loadSegReal sr sel s = u := by simpa using hu
      exact (Special.segLoaded h sr rm _ hsr).effect

/-! ## Control and test registers -/

theorem readSpecial_quiet {r : Reg} {v : DWord} {n : Nat} (h : readSpecial s r v n = .ok t) : Quiet s t := by
  obtain ⟨_, -, rfl⟩ := res_map_ok h
  exact (Quiet.refl s).setReg.endSpecial

theorem execMovRCr0_effect {h : Hdr} {r : Reg} (e : execMovRCr0 h r s = .next t) : Effect (.movRCr0 h r) s t :=
  effect_of_conclude e fun e => (readSpecial_quiet e).effect

theorem execMovRCr3_effect {h : Hdr} {r : Reg} (e : execMovRCr3 h r s = .next t) : Effect (.movRCr3 h r) s t :=
  effect_of_conclude e fun e => (readSpecial_quiet e).effect

theorem execMovRTr6_effect {h : Hdr} {r : Reg} (e : execMovRTr6 h r s = .next t) : Effect (.movRTr6 h r) s t :=
  effect_of_conclude e fun e => ((Quiet.refl s).drawn.trans (readSpecial_quiet e)).effect

theorem execMovRTr7_effect {h : Hdr} {r : Reg} (e : execMovRTr7 h r s = .next t) : Effect (.movRTr7 h r) s t :=
  effect_of_conclude e fun e => ((Quiet.refl s).drawn.trans (readSpecial_quiet e)).effect

theorem execMovCr0R_effect {h : Hdr} {r : Reg} (e : execMovCr0R h r s = .next t) : Effect (.movCr0R h r) s t :=
  effect_of_conclude e fun e => by
    obtain ⟨_, hp, e⟩ := res_bind_ok e
    obtain ⟨hpg, e⟩ := guard_ok e
    obtain ⟨hpe, e⟩ := guard_ok e
    obtain rfl : writeCr0 s (s.reg 32 r) (Instr.movCr0R h r).length = t := by simpa using e
    exact ⟨_, .cr0Written h r (requireCpl0_ok hp) (by simpa using hpg) (by simpa using hpe),
      ⟨rfl, sameControlFlags_undefined _ _, id⟩⟩

theorem execMovCr3R_effect {h : Hdr} {r : Reg} (e : execMovCr3R h r s = .next t) : Effect (.movCr3R h r) s t :=
  effect_of_conclude e fun e => by
    obtain ⟨_, -, rfl⟩ := res_map_ok e
    exact (Special.cr3Written h r).effect.quiet (Quiet.refl _).endSpecial

theorem execMovTr7R_effect {h : Hdr} {r : Reg} (e : execMovTr7R h r s = .next t) : Effect (.movTr7R h r) s t :=
  effect_of_conclude e fun e => by
    obtain ⟨_, -, rfl⟩ := res_map_ok e
    exact (Special.tr7Written h r _).effect.quiet (Quiet.refl _).endSpecial

theorem tlbWrite_effect {h : Hdr} {r : Reg} {x v : TR6} (e : tlbWrite v { s with tr6 := x } = .ok t) : Effect (.movTr6R h r) s t := by
  unfold tlbWrite refuse at e
  obtain ⟨-, e⟩ := guard_ok e
  obtain ⟨-, e⟩ := guard_ok e
  obtain ⟨p, -, rfl⟩ := res_map_ok e
  exact (Special.tlbWritten h r x _ _ (writtenEntry { s with tr6 := x } v p) _ rfl).effect

theorem tlbReport_effect {h : Hdr} {r : Reg} {x : TR6} {l : List (BitVec 2 × BitVec 3)}
    (e : tlbReport { s with tr6 := x } l = .ok t) : Effect (.movTr6R h r) s t := by
  unfold tlbReport at e
  split at e
  · obtain rfl : tlbMiss { s with tr6 := x } = t := by simpa using e
    exact (Special.tlbSearched h r x _).effect.quiet (Quiet.refl _).drawn
  · obtain rfl : tlbHit _ _ _ = t := by simpa using e
    exact (Special.tlbSearched h r _ _).effect
  · simp [refuse] at e

theorem tlbLookup_effect {h : Hdr} {r : Reg} {x v : TR6} (e : tlbLookup v { s with tr6 := x } = .ok t) : Effect (.movTr6R h r) s t := by
  unfold tlbLookup refuse at e
  obtain ⟨-, e⟩ := guard_ok e
  obtain ⟨-, e⟩ := guard_ok e
  obtain ⟨p, -, e⟩ := res_bind_ok e
  exact tlbReport_effect e

theorem execMovTr6R_effect {h : Hdr} {r : Reg} (e : execMovTr6R h r s = .next t) : Effect (.movTr6R h r) s t :=
  effect_of_conclude e fun e => by
    obtain ⟨_, -, e⟩ := res_bind_ok e
    obtain ⟨-, e⟩ := guard_ok e
    obtain ⟨u, hu, rfl⟩ := res_map_ok e
    refine Effect.quiet ?_ (Quiet.refl u).endSpecial
    split at hu
    · exact tlbLookup_effect hu
    · exact tlbWrite_effect hu

/-! ## Tables -/

theorem execLgdt_effect {h : Hdr} {m : Mem} (e : execLgdt h m s = .next t) : Effect (.lgdt h m) s t :=
  effect_of_conclude e fun e => by
    obtain ⟨_, -, e⟩ := res_bind_ok e
    obtain ⟨g, -, rfl⟩ := res_map_ok e
    exact (Special.gdtrLoaded h m g).effect.quiet (Quiet.refl _).advance

theorem execLidt_effect {h : Hdr} {m : Mem} (e : execLidt h m s = .next t) : Effect (.lidt h m) s t :=
  effect_of_conclude e fun e => by
    obtain ⟨_, -, e⟩ := res_bind_ok e
    obtain ⟨g, -, rfl⟩ := res_map_ok e
    exact (Special.idtrLoaded h m g).effect.quiet (Quiet.refl _).advance

theorem loadTr_effect {h : Hdr} {rm : RM Reg} {sel : Word16} (e : loadTr sel s = .ok t) : Effect (.ltr h rm) s t := by
  unfold loadTr raise at e
  obtain ⟨-, e⟩ := guard_ok e
  obtain ⟨d, -, e⟩ := res_bind_ok e
  split at e
  · exact (Special.trLoaded h rm _).effect.quiet (DataStep.ofWriteByte e).quiet
  · simp at e

theorem execLtr_effect {h : Hdr} {rm : RM Reg} (e : execLtr h rm s = .next t) : Effect (.ltr h rm) s t :=
  effect_of_conclude e fun e => by
    obtain ⟨_, -, e⟩ := res_bind_ok e
    obtain ⟨_, -, e⟩ := res_bind_ok e
    obtain ⟨sel, -, e⟩ := res_bind_ok e
    obtain ⟨u, hu, rfl⟩ := res_map_ok e
    exact (loadTr_effect hu).quiet (Quiet.refl u).advance

theorem larLoad_quiet {w : Nat} {r : Reg} {sel : Word16} (e : larLoad w r sel s = .ok t) : Quiet s t := by
  unfold larLoad at e
  split at e
  · obtain rfl : s.setZf false = t := by simpa using e
    exact (Quiet.refl s).setZf
  · obtain ⟨hi, -, rfl⟩ := res_map_ok e
    split
    · exact (Quiet.refl s).setReg.setZf
    · exact (Quiet.refl s).setZf

theorem execLar_effect {h : Hdr} {r : Reg} {rm : RM Reg} (e : execLar h r rm s = .next t) : Effect (.lar h r rm) s t :=
  effect_of_conclude e fun e => by
    obtain ⟨_, -, e⟩ := res_bind_ok e
    obtain ⟨v, -, e⟩ := res_bind_ok e
    obtain ⟨u, hu, rfl⟩ := res_map_ok e
    exact (larLoad_quiet hu).advance.effect

/-! ## Every instruction -/

/-- Every instruction that gives a next state makes one special update of its own and a quiet change. -/
theorem exec_effect {i : Instr} {s t : State} (e : exec i s = .next t) : Effect i s t := by
  cases i with
  | nop h => exact execNop_effect e
  | movR8Imm8 h r imm => exact execMovR8Imm8_effect e
  | movRImm h r imm => exact execMovRImm_effect e
  | movRm8Imm8 h rm imm => exact execMovRm8Imm8_effect e
  | movRmImm h rm imm => exact execMovRmImm_effect e
  | movRm8R8 h rm r => exact execMovRm8R8_effect e
  | movRmR h rm r => exact execMovRmR_effect e
  | movR8Rm8 h r rm => exact execMovR8Rm8_effect e
  | movRRm h r rm => exact execMovRRm_effect e
  | movAlMoffs h off => exact execMovAlMoffs_effect e
  | movAxMoffs h off => exact execMovAxMoffs_effect e
  | movMoffsAl h off => exact execMovMoffsAl_effect e
  | movMoffsAx h off => exact execMovMoffsAx_effect e
  | movSregRm h sr rm => exact execMovSregRm_effect e
  | xorAlImm8 h imm => exact execXorAlImm8_effect e
  | xorRmR h rm r => exact execXorRmR_effect e
  | xorRRm h r rm => exact execXorRRm_effect e
  | incR h r => exact execIncR_effect e
  | decR h r => exact execDecR_effect e
  | shlRmImm8 h rm imm => exact execShlRmImm8_effect e
  | shrRm1 h rm => exact execShrRm1_effect e
  | shrRmImm8 h rm imm => exact execShrRmImm8_effect e
  | outImm8Al h port => exact execOutImm8Al_effect e
  | cli h => exact execCli_effect e
  | cld h => exact execCld_effect e
  | movsB h => exact execMovsB_effect e
  | movsW h => exact execMovsW_effect e
  | repMovs h wide => exact execRepMovs_effect e
  | jmpRel8 h rel => exact execJmpRel8_effect e
  | jmpRel h rel => exact execJmpRel_effect e
  | jmpFar h off sel => exact execJmpFar_effect e
  | jmpFarMem h m => exact execJmpFarMem_effect e
  | callFar h off sel => exact execCallFar_effect e
  | callFarMem h m => exact execCallFarMem_effect e
  | jnzRel8 h rel => exact execJnzRel8_effect e
  | hlt h => exact execHlt_effect e
  | movRCr0 h r => exact execMovRCr0_effect e
  | movRCr3 h r => exact execMovRCr3_effect e
  | movCr0R h r => exact execMovCr0R_effect e
  | movCr3R h r => exact execMovCr3R_effect e
  | movRTr6 h r => exact execMovRTr6_effect e
  | movRTr7 h r => exact execMovRTr7_effect e
  | movTr6R h r => exact execMovTr6R_effect e
  | movTr7R h r => exact execMovTr7R_effect e
  | lgdt h m => exact execLgdt_effect e
  | lidt h m => exact execLidt_effect e
  | ltr h rm => exact execLtr_effect e
  | lar h r rm => exact execLar_effect e

end Sys2Proof.Machine

/-! # Steps and invariants

What a step can do, said once, and the induction over it packaged for the invariants (spec/60_exceptions.md R261 to R266,
R272; 70_reset_and_hazards.md R290). Then the invariants of the TLB and of the code segment. -/

namespace Sys2Proof.Machine

open Sys2Proof

/-! ## The cases of a step -/

/-- An interrupt that gives a next state has shut the processor down. -/
theorem interrupt_next {s t : State} (h : s.interrupt = some (.next t)) :
    t = { s.clearNmi.setRepeat none with run := .shutdown } ∨ t = { s.setRepeat none with run := .shutdown } := by
  unfold State.interrupt at h
  split at h
  · simp at h
  · split at h
    · exact .inl (takeEvent_next (Option.some.inj h)).2
    · split at h
      · exact .inr (takeEvent_next (Option.some.inj h)).2
      · simp at h

/-- Going on: with the shutdown of an exception at the fetch, or with an instruction. -/
theorem goOn_cases (s : State) :
    (∃ o, s.goOn = .done o ∧ ∀ t, o = .next t → t = { s with run := .shutdown }) ∨ ∃ i, s.goOn = .run i (s.entering i) := by
  unfold State.goOn
  split
  · exact .inr ⟨_, rfl⟩
  · unfold State.beginInstr
    split
    · next e he =>
      refine .inl ⟨_, rfl, fun t ht => ?_⟩
      obtain e' | ⟨-, -, e'⟩ := conclude_next ht
      · simp at e'
      · exact e'
    · split
      · exact .inl ⟨_, rfl, fun t ht => by simp at ht⟩
      · exact .inr ⟨_, rfl⟩

/-- A step that gives a next state is a RESET, the shutdown of an event, or an instruction executed with the hold-off kept or ended. -/
theorem step_cases {s t : State} (h : step s = .next t) :
    (∃ p, s.inputs.reset = some p ∧ t = s.takeReset p) ∨
      s.inputs.reset = none ∧ s.run = .running ∧
        ((∃ u, (u = s ∨ u = s.setRepeat none ∨ u = s.clearNmi.setRepeat none) ∧ t = { u with run := .shutdown }) ∨
          ∃ i u, (u = s ∨ u = s.endHoldOff) ∧ exec i u = .next t) := by
  unfold step beginStep at h
  cases hr : s.inputs.reset with
  | some p =>
    rw [hr] at h
    exact .inl ⟨p, rfl, by simpa using h.symm⟩
  | none =>
    rw [hr] at h
    refine .inr ⟨rfl, ?_⟩
    cases hrun : s.run with
    | shutdown => rw [hrun] at h; dsimp only at h; split at h <;> simp at h
    | halted => rw [hrun] at h; simp at h
    | running =>
      rw [hrun] at h
      refine ⟨rfl, ?_⟩
      cases hi : s.interrupt with
      | some o =>
        simp only [hi] at h
        obtain e | e := interrupt_next (h ▸ hi)
        · exact .inl ⟨_, .inr (.inr rfl), e⟩
        · exact .inl ⟨_, .inr (.inl rfl), e⟩
      | none =>
        simp only [hi] at h
        obtain ⟨o, ho, hs⟩ | ⟨i, hg⟩ := goOn_cases s
        · rw [ho] at h
          exact .inl ⟨s, .inl rfl, hs t h⟩
        · rw [hg] at h
          exact .inr ⟨i, _, entering_cases s i, h⟩

/-- What RESET establishes, and the run state, the hold-off, the repeat and the inputs do not matter to, and each special update and each
quiet change keeps, every step keeps. -/
theorem step_keeps {P : State → Prop} (reset : ∀ (s : State) (p : ResetParams), P (s.takeReset p))
    (control : ∀ s, P s → ∀ r h q n, P { s with run := r, holdOff := h, repeating := q, inputs := n })
    (special : ∀ {i s t}, Special s i t → P s → P t) (quiet : ∀ {s t}, Quiet s t → P s → P t) {s t : State} (hs : P s)
    (h : step s = .next t) : P t := by
  obtain ⟨p, -, rfl⟩ | ⟨-, -, ⟨u, hu, rfl⟩ | ⟨i, u, hu, he⟩⟩ := step_cases h
  · exact reset s p
  · obtain rfl | rfl | rfl := hu
    · exact control u hs .shutdown u.holdOff u.repeating u.inputs
    · exact control s hs .shutdown s.holdOff none s.inputs
    · exact control s hs .shutdown s.holdOff none { s.inputs with nmi := false }
  · have hu' : P u := by
      obtain rfl | rfl := hu
      · exact hs
      · exact control s hs s.run false s.repeating s.inputs
    obtain ⟨v, hv, hq⟩ := exec_effect he
    exact quiet hq (special hv hu')

/-! ## Fields that a quiet change keeps -/

theorem Quiet.tlb {s t : State} (h : Quiet s t) : t.tlb = s.tlb := congrArg SystemView.tlb h.sys
theorem Quiet.seg {s t : State} (h : Quiet s t) : t.seg = s.seg := congrArg SystemView.seg h.sys

/-! ## The TLB -/

theorem clearValid_entry (t : Tlb) (b : BitVec 2) (i : BitVec 3) :
    Tlb.entry (Tlb.clearValid t) b i = { Tlb.entry t b i with v := false } := entry_mapEntries _ t b i

/-- After a write of CR3 no entry is valid (41_control_register_moves.md R153). -/
theorem tlbAfterCr3_invalid (s : State) (b : BitVec 2) (i : BitVec 3) : (Tlb.entry (tlbAfterCr3 s) b i).v = false := by
  unfold tlbAfterCr3
  split
  · rw [entry_mapEntries, clearValid_entry]
  · rw [clearValid_entry]

theorem noteSsLoad_tlb (sr : SReg) (s : State) : (noteSsLoad sr s).tlb = s.tlb :=
  congrArg SystemView.tlb (noteSsLoad_sys sr s).1

theorem takeReset_unwrittenInvalid (s : State) (p : ResetParams) : UnwrittenInvalid (s.takeReset p) := fun b i _ => by
  change (Tlb.entry (Tlb.mapEntries TlbEntry.afterReset p.undef.tlb) b i).v = false
  rw [entry_mapEntries]
  rfl

/-- A special update leaves the TLB as it was, invalidates all of it, or writes one entry. -/
theorem Special.unwrittenInvalid {i : Instr} {s t : State} (h : Special s i t) (hs : UnwrittenInvalid s) : UnwrittenInvalid t := by
  cases h with
  | cr3Written => exact fun b i _ => tlbAfterCr3_invalid s b i
  | tlbWritten h r x b i e m he =>
    intro c j hw
    change (Tlb.entry (Tlb.put s.tlb b i e) c j).v = false
    change (Tlb.entry (Tlb.put s.tlb b i e) c j).written = false at hw
    rw [entry_put] at hw ⊢
    split at hw
    · simp [he] at hw
    · next hc => rw [if_neg hc]; exact hs c j hw
  | segLoaded => unfold UnwrittenInvalid; rw [noteSsLoad_tlb]; exact hs
  | _ => exact hs

/-- Settles O58: by the cases of a step; only a write of CR3, which clears every valid bit, and a TLB write, which marks its entry as
written, touch the TLB. -/
theorem unwrittenStaysInvalid : Obligations.UnwrittenStaysInvalid := fun _ _ hs h =>
  step_keeps (P := UnwrittenInvalid) takeReset_unwrittenInvalid (fun _ hs _ _ _ _ => hs) Special.unwrittenInvalid
    (fun hq hs => by unfold UnwrittenInvalid; rw [hq.tlb]; exact hs) hs h

/-! ## The code segment -/

theorem segs_set_cs_of_ne (g : Segs) {r : SReg} (v : SegReg) (h : r ≠ .cs) : (g.set r v).cs = g.cs :=
  g.get_set_other v h.symm

theorem noteSsLoad_seg (sr : SReg) (s : State) : (noteSsLoad sr s).seg = s.seg :=
  congrArg SystemView.seg (noteSsLoad_sys sr s).1

/-- The shape of the code segment depends on CS alone. -/
theorem CodeSegmentShape.congr {s t : State} (h : CodeSegmentShape s) (e : t.seg.cs = s.seg.cs) : CodeSegmentShape t := by
  unfold CodeSegmentShape
  rw [e]
  exact h

theorem takeReset_codeSegmentShape (s : State) (p : ResetParams) : CodeSegmentShape (s.takeReset p) :=
  ⟨.inl rfl, BitVec.getLsbD_zero, rfl⟩

/-- A special update leaves CS as it was, or gives it the base 16 times its selector. -/
theorem Special.codeSegmentShape {i : Instr} {s t : State} (h : Special s i t) (hs : CodeSegmentShape s) : CodeSegmentShape t := by
  cases h with
  | csLoaded i sel => exact ⟨.inr rfl, hs.2⟩
  | segLoaded h sr rm v hsr =>
    refine hs.congr ?_
    rw [noteSsLoad_seg]
    exact segs_set_cs_of_ne s.seg v hsr
  | _ => exact hs

/-- Settles O59: by the cases of a step; only a far transfer in real-address mode writes CS, with base 16 times the selector. -/
theorem codeSegmentKept : Obligations.CodeSegmentKept := fun _ _ hs h =>
  step_keeps (P := CodeSegmentShape) takeReset_codeSegmentShape (fun _ hs _ _ _ _ => hs) Special.codeSegmentShape
    (fun hq hs => hs.congr (by rw [hq.seg])) hs h

end Sys2Proof.Machine

/-! # Writers

Which instructions write each system register and each system flag (spec/10_state.md R23 to R29), read off from the special
update that each instruction can make. -/

namespace Sys2Proof.Machine

open Sys2Proof

theorem noteSsLoad_eflags (sr : SReg) (s : State) : (noteSsLoad sr s).eflags = s.eflags := by
  obtain ⟨-, -, -, h, -⟩ := noteSsLoad_sys sr s
  exact h

/-- Settles O53: a quiet change writes no system register, and each special update is one instruction's own. -/
theorem systemRegistersWrittenByTheirLoads : Obligations.SystemRegistersWrittenByTheirLoads := by
  intro i s t h
  obtain ⟨u, hu, hq⟩ := exec_effect h
  have kept := hq.sys
  simp only [State.sys, SystemView.mk.injEq] at kept
  simp only [kept]
  cases hu with
  | csLoaded i sel hi => cases hi <;> simp [loadCsReal, Segs.set]
  | segLoaded h sr rm v hsr =>
    have noted := (noteSsLoad_sys sr (s.setSeg sr v)).1
    simp only [State.sys, SystemView.mk.injEq] at noted
    simp [noted, segs_set_cs_of_ne _ _ hsr]
  | _ => simp [writeCr3]

/-- Settles O54: a quiet change keeps the system flags, and the special updates of CLI and CLD alone write EFLAGS. -/
theorem systemFlagsKept : Obligations.SystemFlagsKept := by
  intro i s t h
  obtain ⟨u, hu, hq⟩ := exec_effect h
  obtain ⟨htf, hif, hdf, hiopl, hnt, hrf, hvm⟩ := hq.flags
  simp only [htf, hif, hdf, hiopl, hnt, hrf, hvm]
  cases hu with
  | segLoaded => simp [noteSsLoad_eflags]
  | csLoaded => simp [loadCsReal]
  | _ => simp [writeCr3]

end Sys2Proof.Machine

/-! # Fetched instructions

A step that nothing disturbs runs the instruction at CS:EIP (spec/10_state.md R22; 20_memory.md R89; 43 R208). -/

namespace Sys2Proof.Machine

open Sys2Proof

theorem fetch_of_decode {s : State} {i : Instr} (h : decode s.code32 (s.readable s.fetchAddr s.fetchRoom).1 = .ok i) :
    s.fetch = .ok i := by
  unfold State.fetch
  rw [h]

/-- With nothing from outside and no REP MOVS under way, a step executes what it fetches. -/
theorem step_of_fetch {s : State} {i : Instr} (hu : Undisturbed s) (hp : s.prefetchStale = false) (hf : s.fetch = .ok i) :
    step s = exec i (s.entering i) := by
  obtain ⟨hrun, hreset, hint, hrep⟩ := hu
  simp [step, beginStep, hreset, hrun, interrupt_none hint, State.goOn, hrep, State.beginInstr, hf, hp]

/-- With nothing from outside, a step goes on with the REP MOVS that is under way. -/
theorem step_of_repeating {s : State} {r : Repeat} (hrun : s.run = .running) (hreset : s.inputs.reset = none) (hint : NoInterrupt s)
    (hrep : s.repeating = some r) : step s = exec (.repMovs r.hdr r.wide) (s.entering (.repMovs r.hdr r.wide)) := by
  simp [step, beginStep, hreset, hrun, interrupt_none hint, State.goOn, hrep]

/-- The instruction fetched is executed, with the hold-off ended unless it is a REP MOVS with more than one iteration to come. -/
theorem step_of_decode {s : State} {i : Instr} (hu : Undisturbed s) (hp : s.prefetchStale = false)
    (hd : decode s.code32 (s.readable s.fetchAddr s.fetchRoom).1 = .ok i) :
    ((∀ h wide, i = .repMovs h wide → (s.reg h.as.bits .ecx).toNat ≤ 1) → step s = exec i s.endHoldOff) ∧
      ∀ h wide, i = .repMovs h wide → 1 < (s.reg h.as.bits .ecx).toNat → step s = exec i s := by
  have run := step_of_fetch hu hp (fetch_of_decode hd)
  refine ⟨fun last => ?_, ?_⟩
  · rw [run, entering_last last]
  · rintro h wide rfl more
    rw [run, entering_repMovs wide more]

/-- Settles O6. -/
theorem stepRunsDecoded : Obligations.StepRunsDecoded := by
  refine ⟨fun s i hu hp hd => step_of_decode hu hp hd, fun s r hrun hreset hint hrep => ?_⟩
  rw [step_of_repeating hrun hreset hint hrep]
  split
  · next last => rw [entering_last (by rintro g wide ⟨⟩; exact last)]
  · next more => rw [entering_repMovs _ (by omega)]

end Sys2Proof.Machine

/-! # Views of the general registers

The word and byte views (spec/10_state.md R21), and MOV of an immediate to them (43 R191, R192). -/

namespace Sys2Proof.Machine

open Sys2Proof

theorem reg_full (s : State) (r : Reg) : s.reg 32 r = s.gpr.get r := BitVec.setWidth_eq _

theorem reg_word (s : State) (r : Reg) : s.reg 16 r = (s.gpr.get r).extractLsb' 0 16 := by
  apply BitVec.eq_of_getLsbD_eq
  intro k hk
  simp [State.reg, hk]

/-- The table of byte views is the one that the model's accessors follow. -/
theorem byteViews_place : ∀ e ∈ byteViews, e.2.1 = e.1.parent ∧ e.2.2 = e.1.shift := by decide

/-- The bits of the whole register after a write to a byte view. -/
theorem setReg8_getLsbD (s : State) (r : Reg8) (v : Byte) (k : Nat) :
    ((s.setReg8 r v).gpr.get r.parent).getLsbD k =
      if r.shift ≤ k ∧ k < r.shift + 8 then v.getLsbD (k - r.shift) else (s.gpr.get r.parent).getLsbD k := by
  rw [setReg8_gpr, Gpr.get_set_same, mergeBits_getLsbD _ (reg8_shift_le r)]

theorem setReg8_get_other (s : State) (r : Reg8) (v : Byte) {q : Reg} (hq : q ≠ r.parent) :
    (s.setReg8 r v).gpr.get q = s.gpr.get q :=
  Gpr.get_set_other _ _ hq

/-- Settles O24: the views from their accessors, and each MOV from the register write that it makes. -/
theorem movImmediate : Obligations.MovImmediate := by
  refine ⟨fun s => ⟨reg_full s, reg_word s, fun r v => regWritten_setReg (by decide) s r v, ?_⟩, fun s h r imm => ?_,
    fun s h r imm => ?_⟩
  · rintro ⟨r, p, k⟩ he
    obtain ⟨hp, hk⟩ := byteViews_place _ he
    dsimp only at hp hk ⊢
    subst hp hk
    exact ⟨rfl, fun v => ⟨setReg8_getLsbD s r v, fun q hq => setReg8_get_other s r v hq⟩⟩
  · exact ⟨_, rfl, (reg8Written_setReg8 s r imm).congr rfl, fun _ => rfl, rfl, rfl, rfl⟩
  · exact ⟨_, rfl, (regWritten_setReg (bits_le _) s r _).congr rfl, fun _ => rfl, rfl, rfl, rfl⟩

end Sys2Proof.Machine

/-! # Decoding an encoding

What the decoder does with the fields and forms that the encoder writes (spec/30_encoding.md R100 to R107), up to whole instructions. -/

namespace Sys2Proof.Laws

open Sys2Proof

/-! ## Fields -/

theorem takeLe_leBytes : ∀ (n v : Nat) (rest : List Byte), v < 256 ^ n → takeLe n (leBytes n v ++ rest) = some (v, rest)
  | 0, v, rest, h => by
    obtain rfl : v = 0 := by simpa using h
    rfl
  | n + 1, v, rest, h => by
    have hd : v / 256 < 256 ^ n := Nat.div_lt_of_lt_mul (by rwa [Nat.pow_succ'] at h)
    simp only [leBytes, List.cons_append, takeLe, takeLe_leBytes n (v / 256) rest hd, BitVec.toNat_ofNat]
    congr 2
    omega

theorem takeField_leBytes {n v : Nat} (rest : List Byte) (h : v < 256 ^ n) : takeField n (leBytes n v ++ rest) = .ok (v, rest) := by
  simp [takeField, takeLe_leBytes n v rest h]

theorem takeField_byte (b : Byte) (rest : List Byte) : takeField 1 (b :: rest) = .ok (b.toNat, rest) := by
  simp [takeField, takeLe]

/-- A value that fits a size fits the bytes of that size (R106). -/
theorem toNat_lt_of_fits {sz : Size} {v : BitVec 32} (h : fits sz v = true) : v.toNat < 256 ^ sz.bytes := by
  cases sz with
  | s16 => simpa [fits, Size.bytes] using h
  | s32 => exact v.isLt

theorem modrm_mod : ∀ (md : BitVec 2) (reg rm : BitVec 3), (modrmByte md reg rm).extractLsb' 6 2 = md := by decide
theorem modrm_reg : ∀ (md : BitVec 2) (reg rm : BitVec 3), (modrmByte md reg rm).extractLsb' 3 3 = reg := by decide
theorem modrm_rm : ∀ (md : BitVec 2) (reg rm : BitVec 3), (modrmByte md reg rm).extractLsb' 0 3 = rm := by decide

/-- The three fields of a SIB byte lie where those of a ModRM byte do (R103, R105). -/
theorem sib_eq_modrm : sibByte = modrmByte := rfl

@[simp] theorem reg_ofNum_num (r : Reg) : Reg.ofNum r.num = r := by cases r <;> rfl
@[simp] theorem reg8_ofNum_num (r : Reg8) : Reg8.ofNum r.num = r := by cases r <;> rfl
@[simp] theorem sreg_ofNum_num (r : SReg) : SReg.ofNum r.num = some r := by cases r <;> rfl
@[simp] theorem base16_ofNum_num (b : Base16) : Base16.ofNum b.num = b := by cases b <;> rfl

theorem reg_num_injective : Function.Injective Reg.num := Function.LeftInverse.injective reg_ofNum_num
theorem base16_num_injective : Function.Injective Base16.num := Function.LeftInverse.injective base16_ofNum_num

theorem index_ofNum_num {i : Option Reg} (h : i ≠ some .esp) : indexOfNum (indexNum i) = i := by
  cases i with
  | none => rfl
  | some r =>
    cases r with
    | esp => exact absurd rfl h
    | _ => rfl

theorem pfx_ofByte_byte (p : Pfx) : Pfx.ofByte p.byte = some p := by
  cases p with
  | seg s => cases s <;> rfl
  | _ => rfl

/-- The prefixes end at the first byte that is none (R101). -/
theorem splitPfx_encode {op : Byte} (hop : Pfx.ofByte op = none) (t : List Byte) :
    ∀ ps : List Pfx, splitPfx (ps.map Pfx.byte ++ op :: t) = (ps, op :: t)
  | [] => by simp [splitPfx, hop]
  | p :: ps => by simp [splitPfx, pfx_ofByte_byte, splitPfx_encode hop t ps]

/-! ## Memory operands (R104, R105) -/

theorem decodeDisp_encode {w : Nat} (hw : w = 16 ∨ w = 32) (d : Disp w) (rest : List Byte) :
    decodeDisp w d.modBits (d.encode ++ rest) = .ok (d, rest) := by
  cases d with
  | zero => rfl
  | d8 d => simp [decodeDisp, Disp.modBits, Disp.encode, takeField_byte, Except.map]
  | full d =>
    have hd : d.toNat < 256 ^ (w / 8) := by rcases hw with rfl | rfl <;> exact d.isLt
    simp [decodeDisp, Disp.modBits, Disp.encode, takeField_leBytes rest hd, Except.map]

/-- No displacement announces the mode of a register operand. -/
theorem modBits_ne_three {w : Nat} (d : Disp w) : d.modBits ≠ 3#2 := by cases d <;> simp [Disp.modBits]

/-- Mode 0 with the base that needs a displacement announces something else (R104, R105). -/
theorem not_modBits_zero_and {w : Nat} {d : Disp w} {p q : Prop} (h : ¬ p ∨ d.isZero = false) (hq : q → p) :
    ¬ (d.modBits = 0#2 ∧ q) := by
  rintro ⟨hz, hb⟩
  cases d with
  | zero => simp [Disp.isZero, hq hb] at h
  | d8 d => simp [Disp.modBits] at hz
  | full d => simp [Disp.modBits] at hz

theorem decodeMem16_direct (d : BitVec 16) (rest : List Byte) :
    decodeMem16 0 6 (leBytes 2 d.toNat ++ rest) = .ok (.direct16 d, rest) := by
  simp [decodeMem16, takeField_leBytes (n := 2) rest d.isLt, Except.map]

theorem decodeMem16_based {b : Base16} {d : Disp 16} (h : ¬ b = .bp ∨ d.isZero = false) (rest : List Byte) :
    decodeMem16 d.modBits b.num (d.encode ++ rest) = .ok (.based16 b d, rest) := by
  have hn : ¬ (d.modBits = 0#2 ∧ b.num = 6#3) := not_modBits_zero_and h (@base16_num_injective b .bp)
  simp [decodeMem16, hn, decodeDisp_encode (.inl rfl), Except.map]

theorem decodeMem32_direct (d : BitVec 32) (rest : List Byte) :
    decodeMem32 0 5 (leBytes 4 d.toNat ++ rest) = .ok (.direct32 d, rest) := by
  simp [decodeMem32, takeField_leBytes (n := 4) rest d.isLt, Except.map]

theorem decodeMem32_based {r : Reg} {d : Disp 32} (hesp : r ≠ .esp) (h : ¬ r = .ebp ∨ d.isZero = false) (rest : List Byte) :
    decodeMem32 d.modBits r.num (d.encode ++ rest) = .ok (.based32 r d, rest) := by
  have h4 : r.num ≠ 4#3 := fun e => hesp (@reg_num_injective r .esp e)
  have hn : ¬ (d.modBits = 0#2 ∧ r.num = 5#3) := not_modBits_zero_and h (@reg_num_injective r .ebp)
  simp [decodeMem32, h4, hn, decodeDisp_encode (.inr rfl), Except.map]

theorem decodeMem32_sib {sc : BitVec 2} {i : Option Reg} {b : Reg} {d : Disp 32} (hi : i ≠ some .esp)
    (h : ¬ b = .ebp ∨ d.isZero = false) (rest : List Byte) :
    decodeMem32 d.modBits 4 (sibByte sc (indexNum i) b.num :: d.encode ++ rest) = .ok (.sib sc i b d, rest) := by
  have hn : ¬ (d.modBits = 0#2 ∧ b.num = 5#3) := not_modBits_zero_and h (@reg_num_injective b .ebp)
  simp [decodeMem32, decodeSib, sib_eq_modrm, modrm_mod, modrm_reg, modrm_rm, hn, decodeDisp_encode (.inr rfl), index_ofNum_num hi,
    Except.map]

theorem decodeMem32_sibNoBase {sc : BitVec 2} {i : Option Reg} (d : BitVec 32) (hi : i ≠ some .esp) (rest : List Byte) :
    decodeMem32 0 4 (sibByte sc (indexNum i) 5 :: leBytes 4 d.toNat ++ rest) = .ok (.sibNoBase sc i d, rest) := by
  simp [decodeMem32, decodeSib, sib_eq_modrm, modrm_mod, modrm_reg, modrm_rm, takeField_leBytes (n := 4) rest d.isLt,
    index_ofNum_num hi, Except.map]

/-- A ModRM byte that does not announce a register, and the memory operand after it. -/
theorem decodeModRM_mem {as : Size} {md : BitVec 2} {reg rm : BitVec 3} {t rest : List Byte} {m : Mem} (hmd : md ≠ 3#2)
    (h : decodeMem as md rm t = .ok (m, rest)) : decodeModRM as (modrmByte md reg rm :: t) = .ok ⟨reg, .mem m, rest⟩ := by
  simp [decodeModRM, modrm_mod, modrm_reg, modrm_rm, hmd, h, Except.map]

theorem decodeModRM_memEncode {as : Size} {m : Mem} (h : m.wf as = true) (reg : BitVec 3) (rest : List Byte) :
    decodeModRM as (m.encode reg ++ rest) = .ok ⟨reg, .mem m, rest⟩ := by
  cases m with
  | direct16 d =>
    obtain rfl : as = .s16 := by simpa [Mem.wf] using h
    exact decodeModRM_mem (by decide) (decodeMem16_direct d rest)
  | based16 b d =>
    obtain ⟨rfl, hb⟩ : as = .s16 ∧ (¬ b = .bp ∨ d.isZero = false) := by simpa [Mem.wf] using h
    exact decodeModRM_mem (modBits_ne_three d) (decodeMem16_based hb rest)
  | direct32 d =>
    obtain rfl : as = .s32 := by simpa [Mem.wf] using h
    exact decodeModRM_mem (by decide) (decodeMem32_direct d rest)
  | based32 r d =>
    obtain ⟨⟨rfl, hesp⟩, hb⟩ : (as = .s32 ∧ r ≠ .esp) ∧ (¬ r = .ebp ∨ d.isZero = false) := by simpa [Mem.wf] using h
    exact decodeModRM_mem (modBits_ne_three d) (decodeMem32_based hesp hb rest)
  | sib sc i b d =>
    obtain ⟨⟨rfl, hi⟩, hb⟩ : (as = .s32 ∧ i ≠ some .esp) ∧ (¬ b = .ebp ∨ d.isZero = false) := by simpa [Mem.wf] using h
    exact decodeModRM_mem (modBits_ne_three d) (decodeMem32_sib hi hb rest)
  | sibNoBase sc i d =>
    obtain ⟨rfl, hi⟩ : as = .s32 ∧ i ≠ some .esp := by simpa [Mem.wf] using h
    exact decodeModRM_mem (by decide) (decodeMem32_sibNoBase d hi rest)

/-! ## The forms of the opcode map (R107) -/

section Forms

variable (rest : List Byte)

theorem withImm_byte (b : Byte) (f : Nat → Instr) : withImm 1 (b :: rest) f = .ok (f b.toNat) := by
  simp [withImm, takeField_byte, Except.map]

theorem withImm_leBytes {sz : Size} {v : BitVec 32} (h : fits sz v = true) (f : Nat → Instr) :
    withImm sz.bytes (leBytes sz.bytes v.toNat ++ rest) f = .ok (f v.toNat) := by
  simp [withImm, takeField_leBytes rest (toNat_lt_of_fits h), Except.map]

theorem withFarPtr_encode {os : Size} {off : BitVec 32} (sel : BitVec 16) (h : fits os off = true) (f : BitVec 32 → BitVec 16 → Instr) :
    withFarPtr os (leBytes os.bytes off.toNat ++ (leBytes 2 sel.toNat ++ rest)) f = .ok (f off sel) := by
  simp [withFarPtr, takeField_leBytes _ (toNat_lt_of_fits h), takeField_leBytes (n := 2) rest sel.isLt, Except.bind, Except.map]

variable {as : Size} {reg : BitVec 3} {f : ModRM → Decoded Instr}

theorem withModRM_mem {m : Mem} (h : m.wf as = true) : withModRM as (m.encode reg ++ rest) f = f ⟨reg, .mem m, rest⟩ := by
  simp [withModRM, decodeModRM_memEncode h, Except.bind]

theorem withModRM_rm {rm : RM Reg} (h : rm.wf as = true) :
    withModRM as (rm.encode reg ++ rest) f = f ⟨reg, rm.mapReg Reg.num, rest⟩ := by
  cases rm with
  | reg r => simp [withModRM, RM.encode, decodeModRM, modrm_mod, modrm_reg, modrm_rm, RM.mapReg, Except.bind]
  | mem m => exact withModRM_mem rest h

theorem withModRM_rm8 {rm : RM Reg8} (h : rm.wf as = true) :
    withModRM as (rm.encode8 reg ++ rest) f = f ⟨reg, rm.mapReg Reg8.num, rest⟩ := by
  cases rm with
  | reg r => simp [withModRM, RM.encode8, decodeModRM, modrm_mod, modrm_reg, modrm_rm, RM.mapReg, Except.bind]
  | mem m => exact withModRM_mem rest h

@[simp] theorem rm32_mapReg (reg : BitVec 3) (rm : RM Reg) : (ModRM.mk reg (rm.mapReg Reg.num) rest).rm32 = rm := by
  cases rm <;> simp [ModRM.rm32, RM.mapReg]

@[simp] theorem rm8_mapReg (reg : BitVec 3) (rm : RM Reg8) : (ModRM.mk reg (rm.mapReg Reg8.num) rest).rm8 = rm := by
  cases rm <;> simp [ModRM.rm8, RM.mapReg]

theorem withSpecial_encode (n : BitVec 3) (r : Reg) (f : BitVec 3 → Reg → Decoded Instr) :
    withSpecial (modrmByte 3#2 n r.num :: rest) f = f n r := by
  simp [withSpecial, modrm_reg, modrm_rm]

end Forms

theorem plusR_base : ∀ (b : BitVec 5) (n : BitVec 3), (plusR b n).extractLsb' 3 5 = b := by decide
theorem plusR_num : ∀ (b : BitVec 5) (n : BitVec 3), (plusR b n).extractLsb' 0 3 = n := by decide

/-- The forms with a register number in the opcode byte are none of the listed opcodes. -/
theorem decodeOp_plusR {b : BitVec 5} (hb : b = 8#5 ∨ b = 9#5 ∨ b = 22#5 ∨ b = 23#5) (h : Hdr) (n : BitVec 3) (t : List Byte) :
    decodeOp h (plusR b n) t = decodePlusR h (plusR b n) t := by
  rcases hb with rfl | rfl | rfl | rfl <;>
    rcases Machine.bitVec3_cases n with rfl | rfl | rfl | rfl | rfl | rfl | rfl | rfl <;> rfl

/-- An opcode byte with a register number in it is none of the prefixes (R101, R107). -/
theorem pfx_ofByte_plusR {b : BitVec 5} (hb : b = 8#5 ∨ b = 9#5 ∨ b = 22#5 ∨ b = 23#5) (n : BitVec 3) :
    Pfx.ofByte (plusR b n) = none := by
  rcases hb with rfl | rfl | rfl | rfl <;>
    rcases Machine.bitVec3_cases n with rfl | rfl | rfl | rfl | rfl | rfl | rfl | rfl <;> rfl

/-! ## From the opcode on -/

/-- The bytes from the opcode on begin with a byte that is none of the prefixes, and decode to the instruction whatever follows them. -/
def BodyDecodes (i : Instr) : Prop :=
  ∃ op t, i.encodeBody = op :: t ∧ Pfx.ofByte op = none ∧ ∀ rest, decodeOp i.hdr op (t ++ rest) = .ok i

/-- Opcode by opcode: the fields that the encoder writes are those that the decoder's form for that opcode reads. -/
theorem bodyDecodes (i : Instr) (hw : i.operandsWf = true) (hr : i.isRep = false) : BodyDecodes i := by
  cases i with
  | nop h => exact ⟨_, _, rfl, rfl, fun rest => by simp [decodeOp, Instr.hdr]⟩
  | movR8Imm8 h r imm =>
    exact ⟨_, _, rfl, pfx_ofByte_plusR (by decide) _,
      fun rest => by simp [decodeOp_plusR, decodePlusR, plusR_base, plusR_num, withImm_byte, Instr.hdr]⟩
  | movRImm h r imm =>
    exact ⟨_, _, rfl, pfx_ofByte_plusR (by decide) _,
      fun rest => by simp [decodeOp_plusR, decodePlusR, plusR_base, plusR_num, withImm_leBytes _ hw, Instr.hdr]⟩
  | movRm8Imm8 h rm imm => exact ⟨_, _, rfl, rfl, fun rest => by simp [decodeOp, withModRM_rm8 _ hw, withImm_byte, Instr.hdr]⟩
  | movRmImm h rm imm =>
    simp only [Instr.operandsWf, Bool.and_eq_true] at hw
    exact ⟨_, _, rfl, rfl, fun rest => by simp [decodeOp, withModRM_rm _ hw.1, withImm_leBytes _ hw.2, Instr.hdr]⟩
  | movRm8R8 h rm r => exact ⟨_, _, rfl, rfl, fun rest => by simp [decodeOp, withModRM_rm8 _ hw, Instr.hdr]⟩
  | movRmR h rm r => exact ⟨_, _, rfl, rfl, fun rest => by simp [decodeOp, withModRM_rm _ hw, Instr.hdr]⟩
  | movR8Rm8 h r rm => exact ⟨_, _, rfl, rfl, fun rest => by simp [decodeOp, withModRM_rm8 _ hw, Instr.hdr]⟩
  | movRRm h r rm => exact ⟨_, _, rfl, rfl, fun rest => by simp [decodeOp, withModRM_rm _ hw, Instr.hdr]⟩
  | movAlMoffs h off => exact ⟨_, _, rfl, rfl, fun rest => by simp [decodeOp, withImm_leBytes _ hw, Instr.hdr]⟩
  | movAxMoffs h off => exact ⟨_, _, rfl, rfl, fun rest => by simp [decodeOp, withImm_leBytes _ hw, Instr.hdr]⟩
  | movMoffsAl h off => exact ⟨_, _, rfl, rfl, fun rest => by simp [decodeOp, withImm_leBytes _ hw, Instr.hdr]⟩
  | movMoffsAx h off => exact ⟨_, _, rfl, rfl, fun rest => by simp [decodeOp, withImm_leBytes _ hw, Instr.hdr]⟩
  | movSregRm h sr rm => exact ⟨_, _, rfl, rfl, fun rest => by simp [decodeOp, withModRM_rm _ hw, Instr.hdr]⟩
  | xorAlImm8 h imm => exact ⟨_, _, rfl, rfl, fun rest => by simp [decodeOp, withImm_byte, Instr.hdr]⟩
  | xorRmR h rm r => exact ⟨_, _, rfl, rfl, fun rest => by simp [decodeOp, withModRM_rm _ hw, Instr.hdr]⟩
  | xorRRm h r rm => exact ⟨_, _, rfl, rfl, fun rest => by simp [decodeOp, withModRM_rm _ hw, Instr.hdr]⟩
  | incR h r =>
    exact ⟨_, _, rfl, pfx_ofByte_plusR (by decide) _,
      fun rest => by simp [decodeOp_plusR, decodePlusR, plusR_base, plusR_num, Instr.hdr]⟩
  | decR h r =>
    exact ⟨_, _, rfl, pfx_ofByte_plusR (by decide) _,
      fun rest => by simp [decodeOp_plusR, decodePlusR, plusR_base, plusR_num, Instr.hdr]⟩
  | shlRmImm8 h rm imm => exact ⟨_, _, rfl, rfl, fun rest => by simp [decodeOp, withModRM_rm _ hw, withImm_byte, Instr.hdr]⟩
  | shrRm1 h rm => exact ⟨_, _, rfl, rfl, fun rest => by simp [decodeOp, withModRM_rm _ hw, Instr.hdr]⟩
  | shrRmImm8 h rm imm => exact ⟨_, _, rfl, rfl, fun rest => by simp [decodeOp, withModRM_rm _ hw, withImm_byte, Instr.hdr]⟩
  | outImm8Al h port => exact ⟨_, _, rfl, rfl, fun rest => by simp [decodeOp, withImm_byte, Instr.hdr]⟩
  | cli h => exact ⟨_, _, rfl, rfl, fun rest => by simp [decodeOp, Instr.hdr]⟩
  | cld h => exact ⟨_, _, rfl, rfl, fun rest => by simp [decodeOp, Instr.hdr]⟩
  | movsB h => exact ⟨_, _, rfl, rfl, fun rest => by simp [decodeOp, Instr.hdr]⟩
  | movsW h => exact ⟨_, _, rfl, rfl, fun rest => by simp [decodeOp, Instr.hdr]⟩
  | repMovs h wide => simp [Instr.isRep] at hr
  | jmpRel8 h rel => exact ⟨_, _, rfl, rfl, fun rest => by simp [decodeOp, withImm_byte, Instr.hdr]⟩
  | jmpRel h rel => exact ⟨_, _, rfl, rfl, fun rest => by simp [decodeOp, withImm_leBytes _ hw, Instr.hdr]⟩
  | jmpFar h off sel => exact ⟨_, _, rfl, rfl, fun rest => by simp [decodeOp, withFarPtr_encode _ _ hw, Instr.hdr]⟩
  | jmpFarMem h m => exact ⟨_, _, rfl, rfl, fun rest => by simp [decodeOp, withModRM_mem _ hw, ModRM.memOnly, Except.map, Instr.hdr]⟩
  | callFar h off sel => exact ⟨_, _, rfl, rfl, fun rest => by simp [decodeOp, withFarPtr_encode _ _ hw, Instr.hdr]⟩
  | callFarMem h m => exact ⟨_, _, rfl, rfl, fun rest => by simp [decodeOp, withModRM_mem _ hw, ModRM.memOnly, Except.map, Instr.hdr]⟩
  | jnzRel8 h rel => exact ⟨_, _, rfl, rfl, fun rest => by simp [decodeOp, withImm_byte, Instr.hdr]⟩
  | hlt h => exact ⟨_, _, rfl, rfl, fun rest => by simp [decodeOp, Instr.hdr]⟩
  | movRCr0 h r => exact ⟨_, _, rfl, rfl, fun rest => by simp [decodeOp, decodeTwoByte, withSpecial_encode, Instr.hdr]⟩
  | movRCr3 h r => exact ⟨_, _, rfl, rfl, fun rest => by simp [decodeOp, decodeTwoByte, withSpecial_encode, Instr.hdr]⟩
  | movCr0R h r => exact ⟨_, _, rfl, rfl, fun rest => by simp [decodeOp, decodeTwoByte, withSpecial_encode, Instr.hdr]⟩
  | movCr3R h r => exact ⟨_, _, rfl, rfl, fun rest => by simp [decodeOp, decodeTwoByte, withSpecial_encode, Instr.hdr]⟩
  | movRTr6 h r => exact ⟨_, _, rfl, rfl, fun rest => by simp [decodeOp, decodeTwoByte, withSpecial_encode, Instr.hdr]⟩
  | movRTr7 h r => exact ⟨_, _, rfl, rfl, fun rest => by simp [decodeOp, decodeTwoByte, withSpecial_encode, Instr.hdr]⟩
  | movTr6R h r => exact ⟨_, _, rfl, rfl, fun rest => by simp [decodeOp, decodeTwoByte, withSpecial_encode, Instr.hdr]⟩
  | movTr7R h r => exact ⟨_, _, rfl, rfl, fun rest => by simp [decodeOp, decodeTwoByte, withSpecial_encode, Instr.hdr]⟩
  | lgdt h m =>
    exact ⟨_, _, rfl, rfl,
      fun rest => by simp [decodeOp, decodeTwoByte, withModRM_mem _ hw, ModRM.memOnly, Except.map, Instr.hdr]⟩
  | lidt h m =>
    exact ⟨_, _, rfl, rfl,
      fun rest => by simp [decodeOp, decodeTwoByte, withModRM_mem _ hw, ModRM.memOnly, Except.map, Instr.hdr]⟩
  | ltr h rm => exact ⟨_, _, rfl, rfl, fun rest => by simp [decodeOp, decodeTwoByte, withModRM_rm _ hw, Instr.hdr]⟩
  | lar h r rm => exact ⟨_, _, rfl, rfl, fun rest => by simp [decodeOp, decodeTwoByte, withModRM_rm _ hw, Instr.hdr]⟩

/-! ## Whole instructions -/

/-- A well-formed header is the one that the decoder makes of its prefixes (R102). -/
theorem hdr_of_wf {d32 isRep : Bool} {h : Hdr} (hw : h.wf d32 isRep = true) :
    (⟨h.pfx, Size.resolve d32 (h.pfx.contains .opSize), Size.resolve d32 (h.pfx.contains .addrSize)⟩ : Hdr) = h ∧
      h.pfx.contains .rep = isRep := by
  simp only [Hdr.wf, Bool.and_eq_true, beq_iff_eq] at hw
  obtain ⟨⟨hos, has⟩, hrep⟩ := hw
  exact ⟨by rw [← hos, ← has], hrep⟩

/-- Prefixes, then an opcode that is none of them, then what follows. -/
theorem decode_of_pfx {d32 : Bool} {h : Hdr} {isRep : Bool} (hw : h.wf d32 isRep = true) {op : Byte} (hop : Pfx.ofByte op = none)
    (t : List Byte) : decode d32 (h.pfx.map Pfx.byte ++ op :: t) =
      (if isRep then decodeRep h op else decodeOp h op t).bind checkLength := by
  obtain ⟨hh, hr⟩ := hdr_of_wf hw
  simp only [decode, splitPfx_encode hop, hh, hr]

theorem eq_repMovs_of_isRep {i : Instr} (h : i.isRep = true) : ∃ g wide, i = .repMovs g wide := by
  cases i with
  | repMovs g wide => exact ⟨g, wide, rfl⟩
  | _ => simp [Instr.isRep] at h

theorem decodeRep_encode (h : Hdr) (wide : Bool) : decodeRep h (if wide then 0xA5 else 0xA4) = .ok (.repMovs h wide) := by
  cases wide <;> rfl

/-- Decoding the bytes of a well-formed instruction gives it back, whatever follows them. -/
theorem decode_encode {d32 : Bool} {i : Instr} (hw : i.wf d32 = true) (rest : List Byte) : decode d32 (encode i ++ rest) = .ok i := by
  simp only [Instr.wf, Bool.and_eq_true, decide_eq_true_eq] at hw
  obtain ⟨⟨hhdr, hops⟩, hlen⟩ := hw
  have checked : checkLength i = .ok i := if_pos hlen
  cases hr : i.isRep with
  | true =>
    obtain ⟨h, wide, rfl⟩ := eq_repMovs_of_isRep hr
    have hop : Pfx.ofByte (if wide then 0xA5 else 0xA4) = none := by cases wide <;> rfl
    simp only [encode, Instr.encodeBody, List.append_assoc, List.cons_append]
    rw [decode_of_pfx hhdr hop, hr, if_pos rfl]
    exact (congrArg (Except.bind · checkLength) (decodeRep_encode h wide)).trans checked
  | false =>
    obtain ⟨op, t, hbody, hop, hdec⟩ := bodyDecodes i hops hr
    simp only [encode, hbody, List.append_assoc, List.cons_append]
    rw [decode_of_pfx hhdr hop, hr, if_neg Bool.false_ne_true, hdec]
    exact checked

/-- Every instruction is encoded in as many bytes as its length says (R100). -/
theorem encode_length (i : Instr) : (encode i).length = i.length := by
  cases i with
  | nop h => exact EncodeLength.nop h
  | movR8Imm8 h r imm => exact EncodeLength.movR8Imm8 h r imm
  | movRImm h r imm => exact EncodeLength.movRImm h r imm
  | movRm8Imm8 h rm imm => exact EncodeLength.movRm8Imm8 h rm imm
  | movRmImm h rm imm => exact EncodeLength.movRmImm h rm imm
  | movRm8R8 h rm r => exact EncodeLength.movRm8R8 h rm r
  | movRmR h rm r => exact EncodeLength.movRmR h rm r
  | movR8Rm8 h r rm => exact EncodeLength.movR8Rm8 h r rm
  | movRRm h r rm => exact EncodeLength.movRRm h r rm
  | movAlMoffs h off => exact EncodeLength.movAlMoffs h off
  | movAxMoffs h off => exact EncodeLength.movAxMoffs h off
  | movMoffsAl h off => exact EncodeLength.movMoffsAl h off
  | movMoffsAx h off => exact EncodeLength.movMoffsAx h off
  | movSregRm h sr rm => exact EncodeLength.movSregRm h sr rm
  | xorAlImm8 h imm => exact EncodeLength.xorAlImm8 h imm
  | xorRmR h rm r => exact EncodeLength.xorRmR h rm r
  | xorRRm h r rm => exact EncodeLength.xorRRm h r rm
  | incR h r => exact EncodeLength.incR h r
  | decR h r => exact EncodeLength.decR h r
  | shlRmImm8 h rm imm => exact EncodeLength.shlRmImm8 h rm imm
  | shrRm1 h rm => exact EncodeLength.shrRm1 h rm
  | shrRmImm8 h rm imm => exact EncodeLength.shrRmImm8 h rm imm
  | outImm8Al h port => exact EncodeLength.outImm8Al h port
  | cli h => exact EncodeLength.cli h
  | cld h => exact EncodeLength.cld h
  | movsB h => exact EncodeLength.movsB h
  | movsW h => exact EncodeLength.movsW h
  | repMovs h wide => exact EncodeLength.repMovs h wide
  | jmpRel8 h rel => exact EncodeLength.jmpRel8 h rel
  | jmpRel h rel => exact EncodeLength.jmpRel h rel
  | jmpFar h off sel => exact EncodeLength.jmpFar h off sel
  | jmpFarMem h m => exact EncodeLength.jmpFarMem h m
  | callFar h off sel => exact EncodeLength.callFar h off sel
  | callFarMem h m => exact EncodeLength.callFarMem h m
  | jnzRel8 h rel => exact EncodeLength.jnzRel8 h rel
  | hlt h => exact EncodeLength.hlt h
  | movRCr0 h r => exact EncodeLength.movRCr0 h r
  | movRCr3 h r => exact EncodeLength.movRCr3 h r
  | movCr0R h r => exact EncodeLength.movCr0R h r
  | movCr3R h r => exact EncodeLength.movCr3R h r
  | movRTr6 h r => exact EncodeLength.movRTr6 h r
  | movRTr7 h r => exact EncodeLength.movRTr7 h r
  | movTr6R h r => exact EncodeLength.movTr6R h r
  | movTr7R h r => exact EncodeLength.movTr7R h r
  | lgdt h m => exact EncodeLength.lgdt h m
  | lidt h m => exact EncodeLength.lidt h m
  | ltr h rm => exact EncodeLength.ltr h rm
  | lar h r rm => exact EncodeLength.lar h r rm

end Sys2Proof.Laws

/-! # Encoded instructions in memory

A step runs the instruction whose encoding stands at CS:EIP (spec/10_state.md R22; 20_memory.md R89). -/

namespace Sys2Proof.Machine

open Sys2Proof

/-- What the fetch reads begins with the bytes that can be accessed. -/
theorem readable_present {s : State} {n m : Nat} {a : DWord} (hp : Present s a n) (hm : n ≤ m) :
    ∃ rest, (s.readable a m).1 = ((List.range n).map fun k => s.byteAt (a + BitVec.ofNat 32 k)) ++ rest := by
  induction n generalizing m a with
  | zero => exact ⟨_, rfl⟩
  | succ n ih =>
    obtain ⟨m, rfl⟩ := Nat.exists_eq_add_of_le' (Nat.one_le_of_lt hm)
    obtain ⟨rest, ih⟩ := ih hp.tail (Nat.le_of_succ_le_succ hm)
    refine ⟨rest, ?_⟩
    simp only [State.readable, readByte_present hp.1 hp.head, ih, List.range_succ_eq_map, List.map_cons, List.map_map,
      List.cons_append, BitVec.add_zero, Function.comp_def, add_ofNat_succ]

/-- Bytes that agree one by one with a list of their number are that list. -/
theorem map_range_eq {l : List Byte} {f : Nat → Byte} (h : ∀ k, k < l.length → f k = l.getD k 0) :
    (List.range l.length).map f = l := by
  apply List.ext_getElem
  · simp
  · intro k _ hk
    simp [h k hk, hk]

/-- Settles O7: the bytes fetched begin with the encoding, which decodes to the instruction whatever follows it. -/
theorem stepRunsEncoded : Obligations.StepRunsEncoded := by
  intro s i hu hp hw hroom hpresent hbytes
  obtain ⟨rest, hread⟩ := readable_present hpresent hroom
  rw [← Laws.encode_length] at hbytes hread
  rw [map_range_eq hbytes] at hread
  exact step_of_decode hu hp (hread ▸ Laws.decode_encode hw rest)

end Sys2Proof.Machine

/-! # Memory over a step

Memory keeps its canonical form (spec/20_memory.md R70): no special update writes memory, a quiet change keeps the form. -/

namespace Sys2Proof.Machine

open Sys2Proof

theorem noteSsLoad_mem (sr : SReg) (s : State) : (noteSsLoad sr s).mem = s.mem := by
  obtain ⟨-, -, h, -⟩ := noteSsLoad_sys sr s
  exact h

/-- Memory is written by quiet changes alone. -/
theorem Special.mem {i : Instr} {s t : State} (h : Special s i t) : t.mem = s.mem := by
  cases h with
  | segLoaded h sr rm v => exact noteSsLoad_mem sr (s.setSeg sr v)
  | _ => rfl

theorem exec_keeps_memWf {i : Instr} {s t : State} (h : exec i s = .next t) (hs : s.mem.wf = true) : t.mem.wf = true := by
  obtain ⟨u, hu, hq⟩ := exec_effect h
  exact hq.mem (hu.mem ▸ hs)

/-- Settles O56: by the cases of a step; RESET, a shutdown and the end of the hold-off leave memory as it was, and an instruction
writes it byte by byte, each write keeping the form. -/
theorem memoryStaysCanonical : Obligations.MemoryStaysCanonical := by
  intro s t hs h
  obtain ⟨p, -, rfl⟩ | ⟨-, -, ⟨u, hu, rfl⟩ | ⟨i, u, hu, he⟩⟩ := step_cases h
  · exact hs
  · obtain rfl | rfl | rfl := hu <;> exact hs
  · obtain rfl | rfl := hu <;> exact exec_keeps_memWf he hs

end Sys2Proof.Machine

/-! # Fetching in the upper 64K

Where the next instruction is fetched after RESET and after a near transfer of 16-bit code (spec/20_memory.md R74;
40_control_transfers.md R130, R131, R135; 70_reset_and_hazards.md R292). -/

namespace Sys2Proof.Machine

open Sys2Proof

/-- RESET comes before everything else (70_reset_and_hazards.md R290). -/
theorem step_of_reset {s : State} {p : ResetParams} (h : s.inputs.reset = some p) : step s = .next (s.takeReset p) := by
  simp [step, beginStep, h]

theorem takeReset_fetchAddr (s : State) (p : ResetParams) : (s.takeReset p).fetchAddr = 0xFFFFFFF0 := by
  change (0xFFFF0000 + 0x0000FFF0 : DWord) = 0xFFFFFFF0
  decide

theorem code32_of_real {s : State} (h : s.pe = false) : s.code32 = false := by simp [State.code32, h]

/-- EIP past an instruction of 16-bit code (10_state.md R22). -/
theorem nextEip_toNat_code16 {s : State} (h : s.code32 = false) (n : Nat) : (s.nextEip n).toNat = (s.eip.toNat + n) % 2 ^ 16 := by
  simp [State.nextEip, h, wrap16_toNat, BitVec.toNat_add]

theorem relTarget_lt {h : Hdr} (ho : h.os = .s16) (s : State) (n : Nat) (d : DWord) : (relTarget h s n d).toNat < 2 ^ 16 := by
  rw [relTarget_toNat, ho]
  exact Nat.mod_lt _ (by decide)

/-- The transfers that leave CS alone (R130, R131, R135). -/
inductive IsNear (h : Hdr) : Instr → Prop
  | jmpRel8 (rel : Byte) : IsNear h (.jmpRel8 h rel)
  | jmpRel (rel : DWord) : IsNear h (.jmpRel h rel)
  | jnzRel8 (rel : Byte) : IsNear h (.jnzRel8 h rel)

/-- A near transfer goes to its target or, when its condition does not hold, to the next instruction; CS stays. -/
theorem IsNear.next {h : Hdr} {i : Instr} {s t : State} (hi : IsNear h i) (e : exec i s = .next t) :
    t.seg = s.seg ∧ ((∃ n d, t.eip = relTarget h s n d) ∨ ∃ n, t.eip = s.nextEip n) := by
  cases hi with
  | jmpRel8 rel =>
    obtain rfl : jumpNear h s _ _ = t := Host.Outcome.next.inj e
    exact ⟨rfl, .inl ⟨_, _, rfl⟩⟩
  | jmpRel rel =>
    obtain rfl : jumpNear h s _ _ = t := Host.Outcome.next.inj e
    exact ⟨rfl, .inl ⟨_, _, rfl⟩⟩
  | jnzRel8 rel =>
    change execJnzRel8 h rel s = .next t at e
    unfold execJnzRel8 at e
    split at e
    · obtain rfl : s.advance _ = t := Host.Outcome.next.inj e
      exact ⟨rfl, .inr ⟨_, rfl⟩⟩
    · obtain rfl : s.setEip _ = t := Host.Outcome.next.inj e
      exact ⟨rfl, .inl ⟨_, _, rfl⟩⟩

theorem IsNear.eip_lt {h : Hdr} {i : Instr} {s t : State} (hi : IsNear h i) (hp : s.pe = false) (ho : h.os = .s16)
    (e : exec i s = .next t) : t.eip.toNat < 2 ^ 16 := by
  obtain ⟨-, ⟨n, d, ht⟩ | ⟨n, ht⟩⟩ := hi.next e
  · rw [ht]
    exact relTarget_lt ho s n d
  · rw [ht, nextEip_toNat_code16 (code32_of_real hp)]
    exact Nat.mod_lt _ (by decide)

/-- The base of the reset with an offset of 16 bits does not pass the end of the address space. -/
theorem fetchAddr_upper {s : State} (hb : s.seg.cs.base = 0xFFFF0000) (he : s.eip.toNat < 2 ^ 16) :
    0xFFFF0000 ≤ s.fetchAddr.toNat := by
  rw [State.fetchAddr, hb]
  bv_omega

/-- Settles O11: RESET gives the base FFFF0000H and the offset FFF0H; a near transfer keeps the base and gives an offset of 16 bits. -/
theorem upperFetchAfterReset : Obligations.UpperFetchAfterReset := by
  refine ⟨fun s t p hr h => ?_, fun s t h i hb hp ho hi e => ?_⟩
  · obtain rfl : s.takeReset p = t := Host.Outcome.next.inj ((step_of_reset hr).symm.trans h)
    exact takeReset_fetchAddr s p
  · have near : IsNear h i := by
      obtain ⟨rel, rfl⟩ | ⟨rel, rfl⟩ | ⟨rel, rfl⟩ := hi
      · exact .jmpRel8 rel
      · exact .jmpRel rel
      · exact .jnzRel8 rel
    obtain ⟨hseg, -⟩ := near.next e
    exact fetchAddr_upper (hseg ▸ hb) (near.eip_lt hp ho e)

end Sys2Proof.Machine

/-! # Reading instructions

What the decoder can accept (spec/30_encoding.md R100 to R109): the bytes that it reads are the encoding of the instruction that it gives,
but for the `mod` field of the moves to and from special registers, which it ignores (R108). -/

namespace Sys2Proof.Laws

open Sys2Proof

/-! ## Fields -/

@[simp] theorem reg_num_ofNum : ∀ n : BitVec 3, (Reg.ofNum n).num = n := by decide
@[simp] theorem reg8_num_ofNum : ∀ n : BitVec 3, (Reg8.ofNum n).num = n := by decide
@[simp] theorem base16_num_ofNum : ∀ n : BitVec 3, (Base16.ofNum n).num = n := by decide
@[simp] theorem indexNum_ofNum : ∀ n : BitVec 3, indexNum (indexOfNum n) = n := by decide

theorem sreg_num_of_ofNum : ∀ (n : BitVec 3) (s : SReg), SReg.ofNum n = some s → s.num = n := by
  intro n s h
  rcases Machine.bitVec3_cases n with rfl | rfl | rfl | rfl | rfl | rfl | rfl | rfl <;> cases h <;> rfl

/-- ESP is no index (R105). -/
theorem indexOfNum_ne_esp : ∀ n : BitVec 3, indexOfNum n ≠ some .esp := by decide

theorem modrmByte_fields : ∀ b : Byte, modrmByte (b.extractLsb' 6 2) (b.extractLsb' 3 3) (b.extractLsb' 0 3) = b := by decide

theorem plusR_fields : ∀ op : Byte, plusR (op.extractLsb' 3 5) (op.extractLsb' 0 3) = op := by decide

/-- Setting both bits of `mod` leaves the register numbers (R108). -/
theorem modrmByte_three_fields : ∀ b : Byte, modrmByte 3 (b.extractLsb' 3 3) (b.extractLsb' 0 3) = b ||| 0xC0 := by decide
theorem setMod_reg : ∀ b : Byte, (b ||| 0xC0).extractLsb' 3 3 = b.extractLsb' 3 3 := by decide
theorem setMod_rm : ∀ b : Byte, (b ||| 0xC0).extractLsb' 0 3 = b.extractLsb' 0 3 := by decide

theorem byte_of_pfx_ofByte {b : Byte} {p : Pfx} (h : Pfx.ofByte b = some p) : p.byte = b := by
  unfold Pfx.ofByte at h
  split at h
  case h_10 => cases h
  all_goals next hb =>
    obtain rfl := Option.some.inj h
    exact (BitVec.eq_of_toNat_eq hb).symm

theorem takeLe_some : ∀ {n : Nat} {t rest : List Byte} {v : Nat}, takeLe n t = some (v, rest) → v < 256 ^ n ∧ t = leBytes n v ++ rest
  | 0, t, rest, v, h => by
    obtain ⟨rfl, rfl⟩ : 0 = v ∧ t = rest := by simpa [takeLe] using h
    exact ⟨Nat.one_pos, rfl⟩
  | n + 1, [], rest, v, h => by simp [takeLe] at h
  | n + 1, b :: t, rest, v, h => by
    rw [takeLe] at h
    split at h
    · cases h
    · next u r hu =>
      obtain ⟨rfl, rfl⟩ : b.toNat + 256 * u = v ∧ r = rest := by simpa using h
      obtain ⟨hlt, rfl⟩ := takeLe_some hu
      have hb : BitVec.ofNat 8 (b.toNat + 256 * u) = b := by
        apply BitVec.eq_of_toNat_eq
        rw [BitVec.toNat_ofNat]
        omega
      have hdiv : (b.toNat + 256 * u) / 256 = u := by omega
      refine ⟨by rw [Nat.pow_succ]; omega, ?_⟩
      simp [leBytes, hb, hdiv]

theorem takeField_ok {n : Nat} {t : List Byte} {r : Nat × List Byte} (h : takeField n t = .ok r) :
    r.1 < 256 ^ n ∧ t = leBytes n r.1 ++ r.2 := by
  unfold takeField at h
  split at h
  · next hs =>
    cases h
    exact takeLe_some hs
  · cases h

theorem decoded_map_ok {α β : Type} {x : Decoded α} {f : α → β} {b : β} (h : x.map f = .ok b) : ∃ a, x = .ok a ∧ f a = b := by
  cases x with
  | error e => cases h
  | ok a => exact ⟨a, rfl, Except.ok.inj h⟩

theorem decoded_bind_ok {α β : Type} {x : Decoded α} {f : α → Decoded β} {b : β} (h : x.bind f = .ok b) :
    ∃ a, x = .ok a ∧ f a = .ok b := by
  cases x with
  | error e => cases h
  | ok a => exact ⟨a, rfl, h⟩

/-- A field read as a number of its own width. -/
theorem takeField_bitVec {n w : Nat} (hw : w = 8 * n) {t : List Byte} {r : Nat × List Byte} (h : takeField n t = .ok r) :
    t = leBytes n (BitVec.ofNat w r.1).toNat ++ r.2 := by
  obtain ⟨hlt, ht⟩ := takeField_ok h
  have hpow : 2 ^ w = 256 ^ n := by rw [hw, Nat.pow_mul]
  rwa [BitVec.toNat_ofNat, Nat.mod_eq_of_lt (hpow ▸ hlt)]

theorem takeField_one {t : List Byte} {r : Nat × List Byte} (h : takeField 1 t = .ok r) : t = BitVec.ofNat 8 r.1 :: r.2 :=
  (takeField_ok h).2

/-- A field of a size, held in 32 bits (R106). -/
theorem takeField_size {sz : Size} {t : List Byte} {r : Nat × List Byte} (h : takeField sz.bytes t = .ok r) :
    fits sz (BitVec.ofNat 32 r.1) = true ∧ t = leBytes sz.bytes (BitVec.ofNat 32 r.1).toNat ++ r.2 := by
  obtain ⟨hlt, ht⟩ := takeField_ok h
  have hle : 256 ^ sz.bytes ≤ 2 ^ 32 := by cases sz <;> decide
  have hv : (BitVec.ofNat 32 r.1).toNat = r.1 := by rw [BitVec.toNat_ofNat, Nat.mod_eq_of_lt (by omega)]
  refine ⟨?_, by rwa [hv]⟩
  cases sz with
  | s16 => simpa [fits, hv, Size.bytes] using hlt
  | s32 => rfl

/-! ## Memory operands (R104, R105) -/

theorem decodeDisp_ok {w : Nat} (hw : w = 16 ∨ w = 32) {md : BitVec 2} (hmd : md ≠ 3) {t : List Byte} {r : Disp w × List Byte}
    (h : decodeDisp w md t = .ok r) : r.1.modBits = md ∧ t = r.1.encode ++ r.2 := by
  unfold decodeDisp at h
  split at h
  · next h0 =>
    cases h
    exact ⟨(BitVec.eq_of_toNat_eq h0).symm, rfl⟩
  · next h1 =>
    obtain ⟨q, hq, rfl⟩ := decoded_map_ok h
    exact ⟨(BitVec.eq_of_toNat_eq h1).symm, takeField_one hq⟩
  · next h0 h1 =>
    replace h0 : md.toNat ≠ 0 := h0
    replace h1 : md.toNat ≠ 1 := h1
    obtain ⟨q, hq, rfl⟩ := decoded_map_ok h
    have h2 : md = 2#2 := by
      have h3 : md.toNat ≠ 3 := fun e => hmd (BitVec.eq_of_toNat_eq e)
      have h4 : md.toNat < 4 := md.isLt
      exact BitVec.eq_of_toNat_eq (show md.toNat = 2 by omega)
    exact ⟨h2.symm, takeField_bitVec (by omega) hq⟩

/-- A displacement is absent in mode 0 only. -/
theorem isZero_iff_modBits {w : Nat} (d : Disp w) : d.isZero = true ↔ d.modBits = 0 := by
  cases d <;> simp [Disp.isZero, Disp.modBits]

theorem base16_ofNum_eq_iff {n : BitVec 3} {b : Base16} : Base16.ofNum n = b ↔ n = b.num :=
  ⟨fun h => by rw [← h, base16_num_ofNum], fun h => by rw [h, base16_ofNum_num]⟩

theorem reg_ofNum_eq_iff {n : BitVec 3} {r : Reg} : Reg.ofNum n = r ↔ n = r.num :=
  ⟨fun h => by rw [← h, reg_num_ofNum], fun h => by rw [h, reg_ofNum_num]⟩

/-- Where mode 0 with a base stands for something else, a displacement stands with that base. -/
theorem not_base_or_disp {w : Nat} {d : Disp w} {md : BitVec 2} {p q : Prop} (hd : d.modBits = md) (h : ¬ (md = 0 ∧ q)) (hp : p ↔ q) :
    ¬ p ∨ d.isZero = false := by
  by_cases hz : d.isZero = true
  · exact .inl fun e => h ⟨hd ▸ (isZero_iff_modBits d).1 hz, hp.1 e⟩
  · exact .inr (Bool.eq_false_of_not_eq_true hz)

/-- A memory operand that the decoder accepts: it is well-formed, and it stands in the bytes that were read. -/
def MemRead (as : Size) (md : BitVec 2) (rm : BitVec 3) (t : List Byte) (r : Mem × List Byte) : Prop :=
  r.1.wf as = true ∧ ∀ reg, modrmByte md reg rm :: t = r.1.encode reg ++ r.2

theorem decodeMem16_ok {md : BitVec 2} (hmd : md ≠ 3) {rm : BitVec 3} {t : List Byte} {r : Mem × List Byte}
    (h : decodeMem16 md rm t = .ok r) : MemRead .s16 md rm t r := by
  unfold decodeMem16 at h
  split at h
  · next hdirect =>
    obtain ⟨rfl, rfl⟩ := hdirect
    obtain ⟨q, hq, rfl⟩ := decoded_map_ok h
    exact ⟨rfl, fun reg => congrArg (_ :: ·) (takeField_bitVec rfl hq)⟩
  · next hbased =>
    obtain ⟨q, hq, rfl⟩ := decoded_map_ok h
    obtain ⟨hd, ht⟩ := decodeDisp_ok (.inl rfl) hmd hq
    have hbp := not_base_or_disp hd hbased (base16_ofNum_eq_iff (b := .bp))
    exact ⟨by simpa [Mem.wf] using hbp, fun reg => by simp [Mem.encode, hd, ← ht]⟩

theorem decodeSib_ok {md : BitVec 2} (hmd : md ≠ 3) {t : List Byte} {r : Mem × List Byte} (h : decodeSib md t = .ok r) :
    MemRead .s32 md 4 t r := by
  cases t with
  | nil => cases h
  | cons b t =>
    rw [decodeSib] at h
    split at h
    · next hnone =>
      obtain ⟨rfl, hb⟩ := hnone
      obtain ⟨q, hq, rfl⟩ := decoded_map_ok h
      have hsib := modrmByte_fields b
      rw [hb] at hsib
      refine ⟨by simp [Mem.wf, indexOfNum_ne_esp], fun reg => ?_⟩
      simp only [Mem.encode, sib_eq_modrm, indexNum_ofNum, List.cons_append]
      rw [← takeField_bitVec rfl hq]
      exact congrArg (_ :: · :: t) hsib.symm
    · next hbase =>
      obtain ⟨q, hq, rfl⟩ := decoded_map_ok h
      obtain ⟨hd, ht⟩ := decodeDisp_ok (.inr rfl) hmd hq
      have hbp := not_base_or_disp hd hbase (reg_ofNum_eq_iff (r := .ebp))
      exact ⟨by simpa [Mem.wf, indexOfNum_ne_esp] using hbp,
        fun reg => by simp [Mem.encode, sib_eq_modrm, modrmByte_fields, hd, ← ht]⟩

theorem decodeMem32_ok {md : BitVec 2} (hmd : md ≠ 3) {rm : BitVec 3} {t : List Byte} {r : Mem × List Byte}
    (h : decodeMem32 md rm t = .ok r) : MemRead .s32 md rm t r := by
  unfold decodeMem32 at h
  split at h
  · next hsib =>
    subst hsib
    exact decodeSib_ok hmd h
  · next hesp =>
    split at h
    · next hdirect =>
      obtain ⟨rfl, rfl⟩ := hdirect
      obtain ⟨q, hq, rfl⟩ := decoded_map_ok h
      exact ⟨rfl, fun reg => congrArg (_ :: ·) (takeField_bitVec rfl hq)⟩
    · next hbased =>
      obtain ⟨q, hq, rfl⟩ := decoded_map_ok h
      obtain ⟨hd, ht⟩ := decodeDisp_ok (.inr rfl) hmd hq
      have hne : Reg.ofNum rm ≠ .esp := mt reg_ofNum_eq_iff.1 hesp
      have hbp := not_base_or_disp hd hbased (reg_ofNum_eq_iff (r := .ebp))
      exact ⟨by simpa [Mem.wf, hne] using hbp, fun reg => by simp [Mem.encode, hd, ← ht]⟩

theorem decodeMem_ok {as : Size} {md : BitVec 2} (hmd : md ≠ 3) {rm : BitVec 3} {t : List Byte} {r : Mem × List Byte}
    (h : decodeMem as md rm t = .ok r) : MemRead as md rm t r := by
  cases as with
  | s16 => exact decodeMem16_ok hmd h
  | s32 => exact decodeMem32_ok hmd h

/-- A ModRM that the decoder accepts, with its register read as one of 32 bits or of 8. -/
structure ModRMRead (as : Size) (t : List Byte) (m : ModRM) : Prop where
  wf32 : m.rm32.wf as = true
  wf8 : m.rm8.wf as = true
  bytes32 : t = m.rm32.encode m.reg ++ m.rest
  bytes8 : t = m.rm8.encode8 m.reg ++ m.rest

theorem decodeModRM_ok {as : Size} {t : List Byte} {m : ModRM} (h : decodeModRM as t = .ok m) : ModRMRead as t m := by
  cases t with
  | nil => cases h
  | cons b t =>
    have hb := modrmByte_fields b
    rw [decodeModRM] at h
    split at h
    · next hreg =>
      cases h
      rw [hreg] at hb
      exact ⟨rfl, rfl, by simp [ModRM.rm32, RM.mapReg, RM.encode, hb], by simp [ModRM.rm8, RM.mapReg, RM.encode8, hb]⟩
    · next hmem =>
      obtain ⟨q, hq, rfl⟩ := decoded_map_ok h
      obtain ⟨hwf, hbytes⟩ := decodeMem_ok hmem hq
      have ht := hbytes (b.extractLsb' 3 3)
      rw [hb] at ht
      exact ⟨hwf, hwf, ht, ht⟩

/-- An operand that must be in memory. -/
theorem ModRMRead.memOnly {as : Size} {t : List Byte} {m : ModRM} {x : Mem} (hm : ModRMRead as t m) (h : m.memOnly = .ok x) :
    x.wf as = true ∧ t = x.encode m.reg ++ m.rest := by
  obtain ⟨reg, rm, rest⟩ := m
  cases rm with
  | reg r => cases h
  | mem y =>
    cases h
    exact ⟨hm.wf32, hm.bytes32⟩

/-! ## The forms of the opcode map (R107) -/

theorem withModRM_ok {as : Size} {t : List Byte} {f : ModRM → Decoded Instr} {i : Instr} (h : withModRM as t f = .ok i) :
    ∃ m, ModRMRead as t m ∧ f m = .ok i := by
  obtain ⟨m, hm, hf⟩ := decoded_bind_ok h
  exact ⟨m, decodeModRM_ok hm, hf⟩

theorem withImm_byte_ok {t : List Byte} {f : Nat → Instr} {i : Instr} (h : withImm 1 t f = .ok i) :
    ∃ v rest, t = BitVec.ofNat 8 v :: rest ∧ f v = i := by
  obtain ⟨r, hr, hf⟩ := decoded_map_ok h
  exact ⟨r.1, r.2, takeField_one hr, hf⟩

theorem withImm_size_ok {sz : Size} {t : List Byte} {f : Nat → Instr} {i : Instr} (h : withImm sz.bytes t f = .ok i) :
    ∃ v rest, fits sz (BitVec.ofNat 32 v) = true ∧ t = leBytes sz.bytes (BitVec.ofNat 32 v).toNat ++ rest ∧ f v = i := by
  obtain ⟨r, hr, hf⟩ := decoded_map_ok h
  obtain ⟨hfits, ht⟩ := takeField_size hr
  exact ⟨r.1, r.2, hfits, ht, hf⟩

theorem withFarPtr_ok {os : Size} {t : List Byte} {f : BitVec 32 → BitVec 16 → Instr} {i : Instr} (h : withFarPtr os t f = .ok i) :
    ∃ off sel rest, fits os off = true ∧ t = leBytes os.bytes off.toNat ++ leBytes 2 sel.toNat ++ rest ∧ f off sel = i := by
  obtain ⟨r, hr, h⟩ := decoded_bind_ok h
  obtain ⟨q, hq, hf⟩ := decoded_map_ok h
  obtain ⟨hfits, ht⟩ := takeField_size hr
  exact ⟨_, _, q.2, hfits, by rw [List.append_assoc, ← takeField_bitVec rfl hq]; exact ht, hf⟩

theorem withSpecial_ok {t : List Byte} {f : BitVec 3 → Reg → Decoded Instr} {i : Instr} (h : withSpecial t f = .ok i) :
    ∃ b rest, t = b :: rest ∧ f (b.extractLsb' 3 3) (Reg.ofNum (b.extractLsb' 0 3)) = .ok i := by
  cases t with
  | nil => cases h
  | cons b rest => exact ⟨b, rest, rfl, h⟩

/-! ## Moves to and from special registers (R108) -/

/-- The second byte of a move to or from a control or test register. -/
def IsSpecialMove (op : Byte) : Prop := op = 0x20 ∨ op = 0x22 ∨ op = 0x24 ∨ op = 0x26

/-- A special move is decoded from the two register numbers of its third byte. -/
theorem decodeTwoByte_special {op : Byte} (hop : IsSpecialMove op) (h : Hdr) :
    ∃ f, ∀ t, decodeTwoByte h op t = withSpecial t f := by
  obtain rfl | rfl | rfl | rfl := hop
  all_goals exact ⟨_, fun _ => rfl⟩

theorem decodeTwoByte_setMod {op : Byte} (hop : IsSpecialMove op) (h : Hdr) (b : Byte) (rest : List Byte) :
    decodeTwoByte h op (b :: rest) = decodeTwoByte h op ((b ||| 0xC0) :: rest) := by
  obtain ⟨f, hf⟩ := decodeTwoByte_special hop h
  simp only [hf, withSpecial, setMod_reg, setMod_rm]

/-- After any prefixes too, `mod` is read as 3 whatever it holds. -/
theorem decode_setMod {d32 isRep : Bool} {h : Hdr} (hw : h.wf d32 isRep = true) {op : Byte} (hop : IsSpecialMove op) (b : Byte)
    (rest : List Byte) : decode d32 (h.pfx.map Pfx.byte ++ 0x0F :: op :: b :: rest) =
      decode d32 (h.pfx.map Pfx.byte ++ 0x0F :: op :: (b ||| 0xC0) :: rest) := by
  have same : decodeOp h 0x0F (op :: b :: rest) = decodeOp h 0x0F (op :: (b ||| 0xC0) :: rest) := decodeTwoByte_setMod hop h b rest
  rw [decode_of_pfx hw rfl, decode_of_pfx hw rfl, same]

/-- The header of an instruction without prefixes (R102). -/
def bareHdr (d32 : Bool) : Hdr := ⟨[], Size.resolve d32 false, Size.resolve d32 false⟩

theorem bareHdr_wf (d32 : Bool) : (bareHdr d32).wf d32 false = true := by simp [Hdr.wf, bareHdr]

theorem decode_twoByte (d32 : Bool) (op : Byte) (t : List Byte) :
    decode d32 (0x0F :: op :: t) = (decodeTwoByte (bareHdr d32) op t).bind checkLength :=
  decode_of_pfx (bareHdr_wf d32) rfl (op :: t)

/-- CR0 and CR3 are the control registers, TR6 and TR7 the test registers; any other number is refused (R109). -/
theorem decodeTwoByte_reserved (h : Hdr) {op b : Byte} (rest : List Byte)
    (hn : ((op = 0x20 ∨ op = 0x22) ∧ b.extractLsb' 3 3 ≠ 0#3 ∧ b.extractLsb' 3 3 ≠ 3#3) ∨
      ((op = 0x24 ∨ op = 0x26) ∧ b.extractLsb' 3 3 ≠ 6#3 ∧ b.extractLsb' 3 3 ≠ 7#3)) :
    decodeTwoByte h op (b :: rest) = .error (.reservedRegister (b.extractLsb' 3 3)) := by
  obtain ⟨rfl | rfl, h1, h2⟩ | ⟨rfl | rfl, h1, h2⟩ := hn
  all_goals simp [decodeTwoByte, withSpecial, h1, h2]

/-- Settles O5: a special move is decoded from the register numbers of its third byte, and only two of them are registers. -/
theorem specialRegisterNumbers : Obligations.SpecialRegisterNumbers := by
  refine fun d32 op b rest hop => ⟨decode_setMod (bareHdr_wf d32) hop b rest, fun hcr h0 h3 => ?_, fun htr h6 h7 => ?_⟩
  · rw [decode_twoByte, decodeTwoByte_reserved _ _ (.inl ⟨hcr, h0, h3⟩)]
    rfl
  · rw [decode_twoByte, decodeTwoByte_reserved _ _ (.inr ⟨htr, h6, h7⟩)]
    rfl

/-! ## From the opcode on -/

/-- The bytes that stand for an instruction from its opcode on: its encoding or, for a move to or from a special register, that with any
`mod` (R108). -/
inductive Spells : List Byte → Instr → Prop
  | encoded (i : Instr) : Spells i.encodeBody i
  | anyMod {op b : Byte} {i : Instr} (hop : IsSpecialMove op) (e : i.encodeBody = [0x0F, op, b ||| 0xC0]) : Spells [0x0F, op, b] i

theorem encodeBody_length (i : Instr) : i.encodeBody.length = i.bodyLength := by
  simpa [encode, Instr.length] using encode_length i

theorem Spells.length {c : List Byte} {i : Instr} (h : Spells c i) : c.length = i.bodyLength := by
  cases h with
  | encoded => exact encodeBody_length i
  | anyMod _ e => rw [← encodeBody_length, e]; rfl

/-- What the decoder accepts after a header `h`, whose prefixes hold REP or not. -/
structure BodyRead (h : Hdr) (isRep : Bool) (bs : List Byte) (i : Instr) : Prop where
  hdr : i.hdr = h
  rep : i.isRep = isRep
  operands : i.operandsWf = true
  bytes : ∃ c rest, bs = c ++ rest ∧ Spells c i

theorem BodyRead.encoded {h : Hdr} {isRep : Bool} {bs : List Byte} {i : Instr} (rest : List Byte) (operands : i.operandsWf = true)
    (bytes : bs = i.encodeBody ++ rest) (hdr : i.hdr = h := by rfl) (rep : i.isRep = isRep := by rfl) : BodyRead h isRep bs i :=
  ⟨hdr, rep, operands, _, rest, bytes, .encoded i⟩

theorem BodyRead.anyMod {h : Hdr} {op b : Byte} {i : Instr} (rest : List Byte) (hop : IsSpecialMove op)
    (e : i.encodeBody = [0x0F, op, b ||| 0xC0]) (operands : i.operandsWf = true := by rfl) (hdr : i.hdr = h := by rfl)
    (rep : i.isRep = false := by rfl) : BodyRead h false (0x0F :: op :: b :: rest) i :=
  ⟨hdr, rep, operands, _, rest, rfl, .anyMod hop e⟩

theorem byte_eq_ofNat {b : Byte} {n : Nat} (h : b.toNat = n) : b = BitVec.ofNat 8 n := by
  rw [← h, BitVec.ofNat_toNat, BitVec.setWidth_eq]

section Opcodes

variable {h : Hdr} {op : Byte} {t : List Byte} {i : Instr}

theorem decodeRep_ok (hd : decodeRep h op = .ok i) : BodyRead h true (op :: t) i := by
  unfold decodeRep at hd
  split at hd
  · next hop =>
    obtain rfl : op = 0xA4 := BitVec.eq_of_toNat_eq hop
    cases hd
    exact .encoded t rfl rfl
  · next hop =>
    obtain rfl : op = 0xA5 := BitVec.eq_of_toNat_eq hop
    cases hd
    exact .encoded t rfl rfl
  · cases hd

theorem decodePlusR_ok (hd : decodePlusR h op t = .ok i) : BodyRead h false (op :: t) i := by
  have hop := plusR_fields op
  unfold decodePlusR at hd
  split_ifs at hd with inc dec mov8 mov
  · cases hd
    exact .encoded t rfl (by simp [Instr.encodeBody, ← inc, hop])
  · cases hd
    exact .encoded t rfl (by simp [Instr.encodeBody, ← dec, hop])
  · obtain ⟨v, rest, rfl, rfl⟩ := withImm_byte_ok hd
    exact .encoded rest rfl (by simp [Instr.encodeBody, ← mov8, hop])
  · obtain ⟨v, rest, hv, rfl, rfl⟩ := withImm_size_ok hd
    exact .encoded rest hv (by simp [Instr.encodeBody, ← mov, hop])

/-- The third byte of a move to or from a special register, by the number in its `reg` field. -/
theorem modrmByte_special {b : Byte} {n : BitVec 3} (hn : b.extractLsb' 3 3 = n) :
    modrmByte 3 n (Reg.ofNum (b.extractLsb' 0 3)).num = b ||| 0xC0 := by
  rw [reg_num_ofNum, ← hn, modrmByte_three_fields]

theorem decodeTwoByte_ok (hd : decodeTwoByte h op t = .ok i) : BodyRead h false (0x0F :: op :: t) i := by
  unfold decodeTwoByte at hd
  split at hd
  · next hop =>
    obtain rfl : op = 0x00 := BitVec.eq_of_toNat_eq hop
    obtain ⟨m, hm, hf⟩ := withModRM_ok hd
    split_ifs at hf with hreg
    cases hf
    exact .encoded m.rest hm.wf32 (by rw [hm.bytes32, hreg]; rfl)
  · next hop =>
    obtain rfl : op = 0x01 := BitVec.eq_of_toNat_eq hop
    obtain ⟨m, hm, hf⟩ := withModRM_ok hd
    split_ifs at hf with hreg hreg
    all_goals
      obtain ⟨x, hx, rfl⟩ := decoded_map_ok hf
      obtain ⟨hwf, ht⟩ := hm.memOnly hx
      exact .encoded m.rest hwf (by rw [ht, hreg]; rfl)
  · next hop =>
    obtain rfl : op = 0x02 := BitVec.eq_of_toNat_eq hop
    obtain ⟨m, hm, ⟨⟩⟩ := withModRM_ok hd
    exact .encoded m.rest hm.wf32 (by simp [Instr.encodeBody, ← hm.bytes32])
  case h_8 => cases hd
  -- 20, 22, 24 and 26: one special register for each of two numbers
  all_goals next hop =>
    obtain rfl := byte_eq_ofNat hop
    obtain ⟨b, rest, rfl, hf⟩ := withSpecial_ok hd
    split_ifs at hf with hn hn
    all_goals
      cases hf
      exact .anyMod rest (by simp [IsSpecialMove]) (by rw [← modrmByte_special hn]; rfl)

theorem decodeOp_ok (hd : decodeOp h op t = .ok i) : BodyRead h false (op :: t) i := by
  unfold decodeOp at hd
  split at hd
  -- no listed opcode
  case h_31 => exact decodePlusR_ok hd
  all_goals
    rename_i hop
    obtain rfl := byte_eq_ofNat hop
  -- 0F: the opcode has a second byte
  case h_1 =>
    cases t with
    | nil => cases hd
    | cons op2 t => exact decodeTwoByte_ok hd
  -- 90, A4, A5, F4, FA, FC: the opcode alone
  case h_11 | h_17 | h_18 | h_27 | h_28 | h_29 =>
    cases hd
    exact .encoded t rfl rfl
  -- 34, 75, E6, EB: a byte
  case h_4 | h_5 | h_23 | h_26 =>
    obtain ⟨v, rest, rfl, rfl⟩ := withImm_byte_ok hd
    exact .encoded rest rfl rfl
  -- A0 to A3, E9: a number of the address size or the operand size
  case h_13 | h_14 | h_15 | h_16 | h_24 =>
    obtain ⟨v, rest, hv, rfl, rfl⟩ := withImm_size_ok hd
    exact .encoded rest hv rfl
  -- 9A, EA: a far pointer
  case h_12 | h_25 =>
    obtain ⟨off, sel, rest, hoff, rfl, rfl⟩ := withFarPtr_ok hd
    exact .encoded rest hoff rfl
  -- 31, 33, 89, 8B: an operand and a register
  case h_2 | h_3 | h_7 | h_9 =>
    obtain ⟨m, hm, ⟨⟩⟩ := withModRM_ok hd
    exact .encoded m.rest hm.wf32 (by simp [Instr.encodeBody, ← hm.bytes32])
  -- 88, 8A: the same of 8 bits
  case h_6 | h_8 =>
    obtain ⟨m, hm, ⟨⟩⟩ := withModRM_ok hd
    exact .encoded m.rest hm.wf8 (by simp [Instr.encodeBody, ← hm.bytes8])
  -- 8E: an operand and a segment register
  case h_10 =>
    obtain ⟨m, hm, hf⟩ := withModRM_ok hd
    split at hf
    · next sr hsr =>
      cases hf
      exact .encoded m.rest hm.wf32 (by simp [Instr.encodeBody, sreg_num_of_ofNum _ _ hsr, ← hm.bytes32])
    · cases hf
  -- D1: an operand, with the opcode extended by the `reg` field
  case h_22 =>
    obtain ⟨m, hm, hf⟩ := withModRM_ok hd
    split_ifs at hf with hreg
    cases hf
    exact .encoded m.rest hm.wf32 (by simp [Instr.encodeBody, ← hreg, ← hm.bytes32])
  -- C1, C6, C7: the same and an immediate
  case h_19 =>
    obtain ⟨m, hm, hf⟩ := withModRM_ok hd
    split_ifs at hf with hreg hreg
    all_goals
      obtain ⟨v, rest, hrest, rfl⟩ := withImm_byte_ok hf
      exact .encoded rest hm.wf32 (by simp [Instr.encodeBody, ← hreg, ← hrest, ← hm.bytes32])
  case h_20 =>
    obtain ⟨m, hm, hf⟩ := withModRM_ok hd
    split_ifs at hf with hreg
    obtain ⟨v, rest, hrest, rfl⟩ := withImm_byte_ok hf
    exact .encoded rest hm.wf8 (by simp [Instr.encodeBody, ← hreg, ← hrest, ← hm.bytes8])
  case h_21 =>
    obtain ⟨m, hm, hf⟩ := withModRM_ok hd
    split_ifs at hf with hreg
    obtain ⟨v, rest, hv, hrest, rfl⟩ := withImm_size_ok hf
    exact .encoded rest (by simp only [Instr.operandsWf, hm.wf32, hv, Bool.and_self])
      (by simp only [Instr.encodeBody, ← hreg, List.cons_append, List.append_assoc, ← hrest, ← hm.bytes32]; rfl)
  -- FF: an operand in memory
  case h_30 =>
    obtain ⟨m, hm, hf⟩ := withModRM_ok hd
    split_ifs at hf with hreg hreg
    all_goals
      obtain ⟨x, hx, rfl⟩ := decoded_map_ok hf
      obtain ⟨hwf, ht⟩ := hm.memOnly hx
      exact .encoded m.rest hwf (by rw [ht, hreg]; rfl)

/-- What the decoder accepts after the prefixes, REP among them or not. -/
theorem decodeAfterPfx_ok {isRep : Bool} (hd : (if isRep then decodeRep h op else decodeOp h op t) = .ok i) :
    BodyRead h isRep (op :: t) i := by
  cases isRep with
  | true => exact decodeRep_ok hd
  | false => exact decodeOp_ok hd

end Opcodes

/-! ## Whole instructions -/

/-- The bytes are those of the prefixes at the front and what follows them (R101). -/
theorem splitPfx_ok : ∀ bs : List Byte, bs = (splitPfx bs).1.map Pfx.byte ++ (splitPfx bs).2
  | [] => rfl
  | b :: t => by
    rw [splitPfx]
    split
    · next p hp =>
      rw [List.map_cons, byte_of_pfx_ofByte hp, List.cons_append, ← splitPfx_ok t]
    · rfl

theorem checkLength_ok {i j : Instr} (h : checkLength i = .ok j) : i = j ∧ i.length ≤ 15 := by
  unfold checkLength at h
  split at h
  · next hlen => exact ⟨Except.ok.inj h, hlen⟩
  · cases h

/-- What the decoder accepts is a well-formed instruction, and the bytes begin with its prefixes and a spelling of the rest of it. -/
theorem decode_ok {d32 : Bool} {bs : List Byte} {i : Instr} (hd : decode d32 bs = .ok i) :
    i.wf d32 = true ∧ ∃ c rest, bs = i.hdr.pfx.map Pfx.byte ++ (c ++ rest) ∧ Spells c i := by
  have hbs := splitPfx_ok bs
  unfold decode at hd
  split at hd
  · cases hd
  · next op t hsplit =>
    obtain ⟨j, hj, hcheck⟩ := decoded_bind_ok hd
    obtain ⟨rfl, hlen⟩ := checkLength_ok hcheck
    obtain ⟨hhdr, hisRep, hops, c, rest, hc, hspells⟩ := decodeAfterPfx_ok hj
    refine ⟨by simp [Instr.wf, Hdr.wf, hhdr, hisRep, hops, hlen], c, rest, ?_, hspells⟩
    rw [hhdr, ← hc, ← hsplit]
    exact hbs

/-- A spelling of a well-formed instruction decodes to it, whatever follows. -/
theorem decode_of_spells {d32 : Bool} {c : List Byte} {i : Instr} (hw : i.wf d32 = true) (hc : Spells c i) (rest : List Byte) :
    decode d32 (i.hdr.pfx.map Pfx.byte ++ (c ++ rest)) = .ok i := by
  have encoded := decode_encode hw rest
  rw [encode, List.append_assoc] at encoded
  cases hc with
  | encoded => exact encoded
  | anyMod hop e =>
    simp only [Instr.wf, Bool.and_eq_true] at hw
    obtain ⟨⟨hhdr, -⟩, -⟩ := hw
    rw [e] at encoded
    exact (decode_setMod hhdr hop _ rest).trans encoded

/-- Settles O1, by the lemma on whole instructions above. -/
theorem decodeEncode : Obligations.DecodeEncode := fun _ _ rest hw => decode_encode hw rest

/-- Settles O2, by what the decoder accepts. -/
theorem decodedWellFormed : Obligations.DecodedWellFormed := fun _ _ _ hd => (decode_ok hd).1

/-- Settles O3: the bytes of the instruction are its prefixes and its spelling, and these decode to it whatever follows. -/
theorem decodeReadsItsLength : Obligations.DecodeReadsItsLength := by
  intro d32 bs rest i hd
  obtain ⟨hw, c, rest', rfl, hc⟩ := decode_ok hd
  have hlen : (i.hdr.pfx.map Pfx.byte ++ c).length = i.length := by simp [Instr.length, hc.length]
  rw [← List.append_assoc]
  refine ⟨by rw [List.length_append]; omega, ?_⟩
  rw [List.take_left' hlen, List.append_assoc]
  exact decode_of_spells hw hc rest

end Sys2Proof.Laws

/-! # Effective addresses

The segment, the base and the offset of a memory operand (spec/30_encoding.md R101, R104 to R106; 20_memory.md R73). -/

namespace Sys2Proof.Machine

open Sys2Proof

/-- The linear address of a memory operand: its segment is the override's or its default's, and a segment that can be used gives its
base. -/
theorem operandAddr_of_segment {s : State} {h : Hdr} {m : Mem} {r : SReg} (hr : OperandSegment h (memSeg m) r)
    (hu : (s.seg.get r).usable = true) : operandAddr s h m = .ok ((s.seg.get r).base + memOffset s m) := by
  rw [operandAddr, hdrSegment_of_operandSegment hr]
  simp [State.linear, State.segBase, hu]

theorem memSeg_based16 (b : Base16) (d : Disp 16) :
    memSeg (.based16 b d) = if b = .bpSi ∨ b = .bpDi ∨ b = .bp then .ss else .ds := by
  cases b <;> rfl

/-- Sign extension keeps the signed value (R106). -/
theorem dispValue_d8_toInt {w : Nat} (hw : 8 ≤ w) (d : Byte) : (dispValue (.d8 d : Disp w)).toInt = d.toInt :=
  BitVec.toInt_signExtend_of_le hw

/-- An offset under 16-bit addressing is a sum modulo 2^16 (R104). -/
theorem memOffset_based16 (s : State) (b : Base16) (d : Disp 16) :
    (memOffset s (.based16 b d)).toNat = ((base16Sum s b).toNat + (dispValue d).toNat) % 65536 := by
  have hlt := (base16Sum s b + dispValue d).isLt
  simp only [memOffset, BitVec.toNat_setWidth]
  rw [Nat.mod_eq_of_lt (by omega), BitVec.toNat_add]

/-- A base of two registers gives the sum of both. -/
theorem add_toNat_mod (x y z : Word16) : ((x + y).toNat + z.toNat) % 65536 = (x.toNat + y.toNat + z.toNat) % 65536 := by
  simp [BitVec.toNat_add]

/-- An index is scaled by a power of 2 (R105). -/
theorem sibIndex_some (s : State) (k : BitVec 2) (x : Reg) :
    (sibIndex s k (some x)).toNat = (s.gpr.get x).toNat * 2 ^ k.toNat % 2 ^ 32 := by
  rw [sibIndex, reg_full, BitVec.toNat_shiftLeft, Nat.shiftLeft_eq]

theorem memOffset_based32 (s : State) (b : Reg) (d : Disp 32) :
    (memOffset s (.based32 b d)).toNat = ((s.gpr.get b).toNat + (dispValue d).toNat) % 2 ^ 32 := by
  rw [memOffset, reg_full, BitVec.toNat_add]

theorem memOffset_sib (s : State) (k : BitVec 2) (x b : Reg) (d : Disp 32) : (memOffset s (.sib k (some x) b d)).toNat =
    ((s.gpr.get b).toNat + (s.gpr.get x).toNat * 2 ^ k.toNat + (dispValue d).toNat) % 2 ^ 32 := by
  simp [memOffset, reg_full, BitVec.toNat_add, sibIndex_some]

theorem memOffset_sib_none (s : State) (k : BitVec 2) (b : Reg) (d : Disp 32) : (memOffset s (.sib k none b d)).toNat =
    ((s.gpr.get b).toNat + (dispValue d).toNat) % 2 ^ 32 := by
  simp [memOffset, reg_full, BitVec.toNat_add, sibIndex]

theorem memOffset_sibNoBase (s : State) (k : BitVec 2) (x : Reg) (d : BitVec 32) : (memOffset s (.sibNoBase k (some x) d)).toNat =
    ((s.gpr.get x).toNat * 2 ^ k.toNat + d.toNat) % 2 ^ 32 := by
  simp [memOffset, BitVec.toNat_add, sibIndex_some]

theorem memOffset_sibNoBase_none (s : State) (k : BitVec 2) (d : BitVec 32) : (memOffset s (.sibNoBase k none d)).toNat = d.toNat := by
  simp [memOffset, sibIndex]

theorem memOffset_direct16 (s : State) (d : BitVec 16) : (memOffset s (.direct16 d)).toNat = d.toNat :=
  BitVec.toNat_setWidth_of_le (by decide)

/-- Settles O22: a default segment for each base, an offset for each row of the addressing tables. -/
theorem effectiveAddress : Obligations.EffectiveAddress := by
  refine fun s => ⟨fun h m r => operandAddr_of_segment, memSeg_based16, fun _ => rfl, fun _ => rfl, fun _ _ => rfl, fun _ _ _ _ => rfl,
    fun _ _ _ => rfl, fun d => ⟨dispValue_d8_toInt (by decide) d, dispValue_d8_toInt (by decide) d⟩, fun _ => rfl, fun _ => rfl,
    rfl, rfl, fun d => ⟨?_, ?_, ?_, ?_, ?_, ?_, ?_, ?_⟩, memOffset_direct16 s, fun _ => rfl, memOffset_based32 s, memOffset_sib s,
    memOffset_sib_none s, memOffset_sibNoBase s, memOffset_sibNoBase_none s⟩
  all_goals rw [memOffset_based16]
  case refine_1 | refine_2 | refine_3 | refine_4 => exact add_toNat_mod _ _ _
  all_goals rfl

end Sys2Proof.Machine

/-! # Words written out

The words of the spec's tables and test vectors (spec/30_encoding.md R107; 95_test_vectors.md). -/

namespace Sys2Proof.Laws

open Sys2Proof

/-- Settles O4, by running the decoder. -/
theorem decodingWords : Obligations.DecodingWords :=
  ⟨by decide, by decide, by decide, by decide, by decide, by decide, by decide, by decide⟩

end Sys2Proof.Laws

/-! # Operations that raise nothing

An access, a push or a far transfer can be refused, but raises no exception (spec/20_memory.md R72, R76; 40_control_transfers.md R132 to
R134): an instruction made of such operations gives its own next state or is refused. -/

namespace Sys2Proof.Machine

open Sys2Proof

/-- An operation that goes through or is refused. -/
def NeverRaises {α : Type} (x : Res α) : Prop := ∀ e, x ≠ .error (.raise e)

namespace NeverRaises

variable {α β : Type}

theorem ok (a : α) : NeverRaises (.ok a : Res α) := fun _ h => by cases h

theorem refuse (r : Refusal) : NeverRaises (Machine.refuse r : Res α) := fun _ h => by cases h

theorem bind {x : Res α} {f : α → Res β} (hx : NeverRaises x) (hf : ∀ a, NeverRaises (f a)) : NeverRaises (x.bind f) := by
  cases x with
  | ok a => exact hf a
  | error e => exact fun e' h => hx e' (by cases h; rfl)

theorem map {x : Res α} {f : α → β} (hx : NeverRaises x) : NeverRaises (x.map f) := by
  cases x with
  | ok a => exact ok (f a)
  | error e => exact fun e' h => hx e' (by cases h; rfl)

/-- An operation that neither raises nor goes through is refused. -/
theorem refused {x : Res State} {s : State} (hx : NeverRaises x) (h : ∀ t, x ≠ .ok t) : ∃ r, conclude s x = .refused r := by
  match x, hx, h with
  | .ok t, _, h => exact absurd rfl (h t)
  | .error (.raise e), hx, _ => exact absurd rfl (hx e)
  | .error (.refuse r), _, _ => exact ⟨r, rfl⟩

/-- The next state of an instruction that raises nothing is its own. -/
theorem next {x : Res State} {s t : State} (hx : NeverRaises x) (h : conclude s x = .next t) : x = .ok t := by
  obtain e | ⟨⟨e, he⟩, -, -⟩ := conclude_next h
  · exact e
  · exact absurd he (hx e)

end NeverRaises

/-! ## Accesses -/

theorem phys_neverRaises (s : State) (l : DWord) : NeverRaises (s.phys l) := by
  unfold State.phys
  split
  · exact .refuse _
  · exact .ok l

theorem readByte_neverRaises (s : State) (l : DWord) : NeverRaises (s.readByte l) :=
  (phys_neverRaises s l).bind fun p => by
    split
    · exact .refuse _
    · exact .ok _
    · exact .ok _

theorem writeByte_neverRaises (s : State) (l : DWord) (b : Byte) : NeverRaises (s.writeByte l b) :=
  (phys_neverRaises s l).bind fun p => by
    split
    · exact .refuse _
    · exact .ok _
    · exact .ok _

theorem readBytes_neverRaises (s : State) : ∀ (l : DWord) (n : Nat), NeverRaises (s.readBytes l n)
  | _, 0 => .ok []
  | l, n + 1 => (readByte_neverRaises s l).bind fun _ => (readBytes_neverRaises s (l + 1) n).map

theorem readMem_neverRaises (s : State) (l : DWord) (n : Nat) : NeverRaises (s.readMem l n) := (readBytes_neverRaises s l n).map

theorem writeBytes_neverRaises : ∀ (bs : List Byte) (s : State) (l : DWord), NeverRaises (s.writeBytes l bs)
  | [], s, _ => .ok s
  | b :: bs, s, l => (writeByte_neverRaises s l b).bind fun t => writeBytes_neverRaises bs t (l + 1)

theorem linear_neverRaises (s : State) (r : SReg) (off : DWord) : NeverRaises (s.linear r off) := by
  refine .map ?_
  unfold State.segBase
  split
  · exact .ok _
  · exact .refuse _

/-! ## Far transfers -/

theorem readFarPtr_neverRaises (h : Hdr) (m : Mem) (s : State) : NeverRaises (readFarPtr h m s) :=
  (linear_neverRaises s _ _).bind fun _ => (readMem_neverRaises s _ _).bind fun _ => (readMem_neverRaises s _ _).map

theorem farProtected_neverRaises (sel : Word16) (s : State) : NeverRaises (farProtected sel s) := by
  unfold farProtected
  split
  · exact .refuse _
  · split
    · refine (readByte_neverRaises s _).bind fun a => ?_
      split
      · exact .refuse _
      · exact .refuse _
    · exact .refuse _

theorem jumpFar_neverRaises (off : DWord) (sel : Word16) (s : State) : NeverRaises (jumpFar off sel s) := by
  unfold jumpFar
  split
  · exact farProtected_neverRaises sel s
  · exact .ok _

theorem push_neverRaises (n v : Nat) (s : State) : NeverRaises (push n v s) :=
  (linear_neverRaises _ _ _).bind fun _ => writeBytes_neverRaises _ _ _

theorem callFar_neverRaises (h : Hdr) (n : Nat) (off : DWord) (sel : Word16) (s : State) : NeverRaises (callFar h n off sel s) := by
  unfold callFar
  split
  · exact farProtected_neverRaises sel s
  · split
    · exact .refuse _
    · exact (push_neverRaises _ _ _).bind fun t => (push_neverRaises _ _ t).map

end Sys2Proof.Machine

/-! # Far transfers

The four far forms, each said as the conclusion of one shared operation; what they can give, where they stop in protected mode, and how far
down a transfer in real-address mode puts the next fetch (spec/40_control_transfers.md R132 to R134, R138, R139). -/

namespace Sys2Proof.Machine

open Sys2Proof

/-! ## The four forms -/

/-- The offset of a direct far transfer is that of its operand size (R106, R132). -/
theorem exec_jmpFar (h : Hdr) (off : DWord) (sel : Word16) (s : State) :
    exec (.jmpFar h off sel) s = conclude s (jumpFar ((off.setWidth h.os.bits).setWidth 32) sel s) := by
  change execJmpFar h off sel s = _
  unfold execJmpFar
  cases h.os with
  | s16 => rfl
  | s32 => simp only [Size.bits, BitVec.setWidth_eq]

theorem exec_callFar (h : Hdr) (off : DWord) (sel : Word16) (s : State) : exec (.callFar h off sel) s =
    conclude s (callFar h (Instr.callFar h off sel).length ((off.setWidth h.os.bits).setWidth 32) sel s) := by
  change execCallFar h off sel s = _
  unfold execCallFar
  cases h.os with
  | s16 => rfl
  | s32 => simp only [Size.bits, BitVec.setWidth_eq]

/-- The offset of a far pointer in memory, of the operand size, at `a` (R133; 20_memory.md R84). -/
def farOffsetAt (s : State) (h : Hdr) (a : DWord) : DWord := BitVec.ofNat 32 (s.valueAt a h.os.bytes)

/-- The selector of a far pointer in memory, after the offset (R133; 20_memory.md R84). -/
def farSelectorAt (s : State) (h : Hdr) (a : DWord) : Word16 := BitVec.ofNat 16 (s.valueAt (a + BitVec.ofNat 32 h.os.bytes) 2)

section Memory

variable {s : State} {h : Hdr} {m : Mem} (hr : AddrReady s (operandAddr s h m) (h.os.bytes + 2))

include hr

theorem exec_jmpFarMem_ready : exec (.jmpFarMem h m) s =
    conclude s (jumpFar (farOffsetAt s h (addrOf (operandAddr s h m))) (farSelectorAt s h (addrOf (operandAddr s h m))) s) := by
  change execJmpFarMem h m s = _
  unfold execJmpFarMem
  rw [readFarPtr_ready hr]
  rfl

theorem exec_callFarMem_ready : exec (.callFarMem h m) s = conclude s (callFar h (Instr.callFarMem h m).length
    (farOffsetAt s h (addrOf (operandAddr s h m))) (farSelectorAt s h (addrOf (operandAddr s h m))) s) := by
  change execCallFarMem h m s = _
  unfold execCallFarMem
  rw [readFarPtr_ready hr]
  rfl

end Memory

theorem two_pow_bits (sz : Size) : 2 ^ sz.bits = 256 ^ sz.bytes := by cases sz <;> rfl

/-- An offset of the operand size, held in 32 bits, fits it. -/
theorem offset_toNat_lt (sz : Size) (off : DWord) : ((off.setWidth sz.bits).setWidth 32).toNat < 2 ^ sz.bits :=
  lt_of_le_of_lt (by simpa using Nat.mod_le _ _) (off.setWidth sz.bits).isLt

/-- A number of the operand size is not cut down to it. -/
theorem offset_ofNat {sz : Size} {v : Nat} (hv : v < 256 ^ sz.bytes) :
    ((BitVec.ofNat 32 v).setWidth sz.bits).setWidth 32 = BitVec.ofNat 32 v := by
  have hlt : (BitVec.ofNat 32 v).toNat < 2 ^ sz.bits := by
    rw [two_pow_bits]
    exact lt_of_le_of_lt (by simpa using Nat.mod_le _ _) hv
  apply BitVec.eq_of_toNat_eq
  rw [BitVec.toNat_setWidth, BitVec.toNat_setWidth, Nat.mod_eq_of_lt hlt, Nat.mod_eq_of_lt (BitVec.isLt _)]

theorem readBytes_length {s : State} : ∀ {n : Nat} {l : DWord} {bs : List Byte}, s.readBytes l n = .ok bs → bs.length = n
  | 0, _, _, h => by cases h; rfl
  | n + 1, l, _, h => by
    obtain ⟨b, -, h⟩ := res_bind_ok h
    obtain ⟨t, ht, rfl⟩ := res_map_ok h
    simp [readBytes_length ht]

/-- The offset of a far pointer in memory fits the operand size, wherever it was read. -/
theorem readFarPtr_offset_lt {h : Hdr} {m : Mem} {s : State} {p : DWord × Word16} (e : readFarPtr h m s = .ok p) :
    p.1.toNat < 2 ^ h.os.bits := by
  obtain ⟨a, -, e⟩ := res_bind_ok e
  obtain ⟨v, hv, e⟩ := res_bind_ok e
  obtain ⟨_, -, rfl⟩ := res_map_ok e
  obtain ⟨bs, hbs, rfl⟩ := res_map_ok hv
  have hlt := leValue_lt bs
  rw [readBytes_length hbs, ← two_pow_bits] at hlt
  exact lt_of_le_of_lt (by simpa using Nat.mod_le _ _) hlt

/-! ## What a far transfer gives -/

/-- A far CALL that goes through makes its pushes and ends as a far JMP (R134). -/
theorem callFar_ok {h : Hdr} {n : Nat} {off : DWord} {sel : Word16} {s t : State} (e : callFar h n off sel s = .ok t) :
    s.pe = false ∧ ∃ u, t = farReal off sel u := by
  unfold callFar at e
  split at e
  · exact absurd e (farProtected_ne_ok sel s t)
  · next hp =>
    obtain ⟨-, e⟩ := guard_ok e
    obtain ⟨u, -, e⟩ := res_bind_ok e
    obtain ⟨v, -, rfl⟩ := res_map_ok e
    exact ⟨by simpa using hp, v, rfl⟩

/-- `r` is the result of a far transfer of operand size `sz` begun in `s`: it raises nothing, and goes through in real-address mode only,
with the end that all far transfers have and an offset of the operand size. -/
structure FarResult (sz : Size) (s : State) (r : Res State) : Prop where
  neverRaises : NeverRaises r
  ended : ∀ t, r = .ok t → s.pe = false ∧ ∃ off sel u, t = farReal off sel u ∧ off.toNat < 2 ^ sz.bits

theorem jumpFar_farResult {sz : Size} {off : DWord} (ho : off.toNat < 2 ^ sz.bits) (sel : Word16) (s : State) :
    FarResult sz s (jumpFar off sel s) :=
  ⟨jumpFar_neverRaises off sel s, fun _ e => by
    obtain ⟨hp, rfl⟩ := jumpFar_ok e
    exact ⟨hp, off, sel, s, rfl, ho⟩⟩

theorem callFar_farResult {h : Hdr} {sz : Size} {off : DWord} (ho : off.toNat < 2 ^ sz.bits) (n : Nat) (sel : Word16) (s : State) :
    FarResult sz s (callFar h n off sel s) :=
  ⟨callFar_neverRaises h n off sel s, fun _ e => by
    obtain ⟨hp, u, rfl⟩ := callFar_ok e
    exact ⟨hp, off, sel, u, rfl, ho⟩⟩

/-- A transfer through a pointer that memory holds, once the pointer has been read. -/
theorem farResult_of_pointer {h : Hdr} {m : Mem} {s : State} {f : DWord × Word16 → Res State}
    (hf : ∀ p, p.1.toNat < 2 ^ h.os.bits → FarResult h.os s (f p)) : FarResult h.os s ((readFarPtr h m s).bind f) := by
  cases e : readFarPtr h m s with
  | error x =>
    have raises := readFarPtr_neverRaises h m s
    rw [e] at raises
    exact ⟨fun y hy => raises y (by cases hy; rfl), fun _ ht => by cases ht⟩
  | ok p => exact hf p (readFarPtr_offset_lt e)

/-- Every far instruction ends with the result of a far transfer. -/
theorem IsFar.result {i : Instr} (hi : IsFar i) (s : State) : ∃ r, exec i s = conclude s r ∧ FarResult i.hdr.os s r := by
  cases hi with
  | jmp h off sel => exact ⟨_, exec_jmpFar h off sel s, jumpFar_farResult (offset_toNat_lt h.os off) sel s⟩
  | jmpMem h m => exact ⟨_, rfl, farResult_of_pointer fun p hp => jumpFar_farResult hp p.2 s⟩
  | call h off sel => exact ⟨_, exec_callFar h off sel s, callFar_farResult (offset_toNat_lt h.os off) _ sel s⟩
  | callMem h m => exact ⟨_, rfl, farResult_of_pointer fun p hp => callFar_farResult hp _ p.2 s⟩

theorem IsFar.next {i : Instr} {s t : State} (hi : IsFar i) (e : exec i s = .next t) :
    ∃ off sel u, t = farReal off sel u ∧ off.toNat < 2 ^ i.hdr.os.bits := by
  obtain ⟨r, hr, far⟩ := hi.result s
  obtain ⟨-, ended⟩ := far.ended t (far.neverRaises.next (hr.symm.trans e))
  exact ended

/-- In protected mode no far instruction goes through (R132, R134, R139). -/
theorem IsFar.refused {i : Instr} {s : State} (hi : IsFar i) (hp : s.pe = true) : ∃ r, exec i s = .refused r := by
  obtain ⟨r, hr, far⟩ := hi.result s
  rw [hr]
  refine far.neverRaises.refused fun t ht => ?_
  obtain ⟨real, -⟩ := far.ended t ht
  simp [hp] at real

/-! ## The base of CS (R138) -/

/-- 16 times a selector lies below 2^20, so it is taken without loss. -/
theorem realBase_toNat (sel : Word16) : (sel.setWidth 32 * 16 : DWord).toNat = sel.toNat * 16 := by bv_omega

theorem realBase_ne_reset (sel : Word16) : (sel.setWidth 32 * 16 : DWord) ≠ 0xFFFF0000 := by
  intro e
  have := realBase_toNat sel
  rw [e] at this
  have hlt := sel.isLt
  simp at this
  omega

theorem fetchAddr_farReal {off : DWord} (ho : off.toNat < 2 ^ 16) (sel : Word16) (u : State) :
    (farReal off sel u).fetchAddr.toNat = sel.toNat * 16 + off.toNat := by
  have hlt := sel.isLt
  change (sel.setWidth 32 * 16 + off : DWord).toNat = _
  rw [BitVec.toNat_add, realBase_toNat, Nat.mod_eq_of_lt (by omega)]

/-- A special update keeps the base of CS or makes it 16 times a selector. -/
theorem Special.csBase {i : Instr} {s t : State} (h : Special s i t) :
    t.seg.cs.base = s.seg.cs.base ∨ ∃ sel : Word16, t.seg.cs.base = sel.setWidth 32 * 16 := by
  cases h with
  | csLoaded i sel => exact .inr ⟨sel, rfl⟩
  | segLoaded h sr rm v hsr =>
    rw [noteSsLoad_seg, setSeg_seg, segs_set_cs_of_ne s.seg v hsr]
    exact .inl rfl
  | _ => exact .inl rfl

/-- Without RESET a step keeps the base of CS or makes it 16 times a selector. -/
theorem step_csBase {s t : State} (hr : s.inputs.reset = none) (h : step s = .next t) :
    t.seg.cs.base = s.seg.cs.base ∨ ∃ sel : Word16, t.seg.cs.base = sel.setWidth 32 * 16 := by
  obtain ⟨p, hp, -⟩ | ⟨-, -, ⟨u, hu, rfl⟩ | ⟨i, u, hu, he⟩⟩ := step_cases h
  · simp [hr] at hp
  · left
    obtain rfl | rfl | rfl := hu <;> rfl
  · obtain ⟨v, hv, hq⟩ := exec_effect he
    have same : u.seg = s.seg := by obtain rfl | rfl := hu <;> rfl
    rw [hq.seg, ← same]
    exact hv.csBase

/-- Settles O9: a far transfer that goes through ends with the base 16 times the selector and an offset of 16 bits; no step but RESET gives
CS another base. -/
theorem farDropsLow : Obligations.FarDropsLow := by
  refine ⟨fun s t h i _ ho hi e => ?_, fun s t hr hb h => ?_⟩
  · have far : IsFar i ∧ i.hdr = h := by
      obtain ⟨off, sel, rfl⟩ | ⟨m, rfl⟩ | ⟨off, sel, rfl⟩ | ⟨m, rfl⟩ := hi
      · exact ⟨.jmp h off sel, rfl⟩
      · exact ⟨.jmpMem h m, rfl⟩
      · exact ⟨.call h off sel, rfl⟩
      · exact ⟨.callMem h m, rfl⟩
    obtain ⟨hfar, rfl⟩ := far
    obtain ⟨off, sel, u, rfl, hoff⟩ := hfar.next e
    rw [ho] at hoff
    have hsel := sel.isLt
    rw [fetchAddr_farReal hoff]
    change off.toNat < 65536 at hoff
    exact ⟨rfl, by omega, fun (low : sel.toNat ≤ 0xF000) => by omega⟩
  · obtain e | ⟨sel, e⟩ := step_csBase hr h
    · rw [e]; exact hb
    · rw [e]; exact realBase_ne_reset sel

/-! ## Stops -/

theorem jumpFar_protected {s : State} (hp : s.pe = true) (off : DWord) (sel : Word16) : jumpFar off sel s = farProtected sel s :=
  if_pos hp

theorem callFar_protected {s : State} (hp : s.pe = true) (h : Hdr) (n : Nat) (off : DWord) (sel : Word16) :
    callFar h n off sel s = farProtected sel s :=
  if_pos hp

theorem callFar_beforeSs {s : State} (hp : s.pe = false) (hs : s.ssLoaded = false) (h : Hdr) (n : Nat) (off : DWord) (sel : Word16) :
    callFar h n off sel s = refuse .stackBeforeSs := by
  simp [callFar, hp, hs]

/-- The types of a TSS, spelt out (R139; log 21). -/
theorem accTss_iff (a : Byte) : accTss a = true ↔ a.extractLsb' 0 5 ∈ [1#5, 3#5, 9#5, 0xB#5] := by
  have h : ∀ a : BitVec 8, accTss a = decide (a.extractLsb' 0 5 ∈ [1#5, 3#5, 9#5, 0xB#5]) := by decide
  rw [h, decide_eq_true_iff]

theorem farProtected_beforeGdtr {s : State} (hg : s.gdtrLoaded = false) (sel : Word16) :
    farProtected sel s = refuse .segmentLoadBeforeGdtr := by
  simp [farProtected, hg]

/-- A selector that names nothing in the GDT: null, of the LDT, or past the limit. -/
theorem farProtected_noEntry {s : State} {sel : Word16} (hg : s.gdtrLoaded = true)
    (hn : selNull sel = true ∨ selLdt sel = true ∨ s.gdtr.limit.toNat < (selOffset sel).toNat + 7) :
    farProtected sel s = refuse .protectedFarTransfer := by
  have none : namesGdtEntry s sel = false := by
    obtain hn | hn | hn := hn
    · simp [namesGdtEntry, hn]
    · simp [namesGdtEntry, hn]
    · simp [namesGdtEntry, selInside, hn]
  simp [farProtected, hg, none]

theorem GdtEntry.names {s : State} {sel : Word16} (h : GdtEntry s sel) : namesGdtEntry s sel = true := by
  obtain ⟨hnull, hldt, hinside, -⟩ := h
  simp [namesGdtEntry, selInside, hnull, hldt, hinside]

/-- The access byte of an entry of the GDT can be read. -/
theorem GdtEntry.readAccess {s : State} {sel : Word16} (h : GdtEntry s sel) :
    s.readByte (s.gdtAddr sel + 5) = .ok (s.byteAt (s.gdtAddr sel + 5)) := by
  obtain ⟨-, -, -, hp⟩ := h
  exact readByte_present hp.1 (hp.sub 5 1 (by decide)).head

theorem farProtected_entry {s : State} {sel : Word16} (hg : s.gdtrLoaded = true) (he : GdtEntry s sel) :
    farProtected sel s = if (s.byteAt (s.gdtAddr sel + 5)).extractLsb' 0 5 ∈ [1#5, 3#5, 9#5, 0xB#5] then refuse .taskSwitch
      else refuse .protectedFarTransfer := by
  simp only [farProtected, hg, he.names, he.readAccess, ok_bind, accTss_iff]
  rfl

/-- In protected mode a far instruction whose selector is `sel` ends as every transfer to `sel` does. -/
theorem exec_far_protected {s : State} {h : Hdr} {i : Instr} {sel : Word16} (hp : s.pe = true)
    (hi : (∃ off, i = .jmpFar h off sel ∨ i = .callFar h off sel) ∨
      ∃ m, (i = .jmpFarMem h m ∨ i = .callFarMem h m) ∧ AddrReady s (operandAddr s h m) (h.os.bytes + 2) ∧
        sel = farSelectorAt s h (addrOf (operandAddr s h m))) :
    exec i s = conclude s (farProtected sel s) := by
  obtain ⟨off, rfl | rfl⟩ | ⟨m, rfl | rfl, hr, rfl⟩ := hi
  · rw [exec_jmpFar, jumpFar_protected hp]
  · rw [exec_callFar, callFar_protected hp]
  · rw [exec_jmpFarMem_ready hr, jumpFar_protected hp]
  · rw [exec_callFarMem_ready hr, callFar_protected hp]

/-- Settles O20: in protected mode every form ends in the transfer that the spec refuses, which has one case for each name; in real-address
mode a CALL is refused once its pointer has been read. -/
theorem farTransferStops : Obligations.FarTransferStops := by
  refine ⟨fun s h i hp hi => ?_, fun s h i sel hp hi => ?_, fun s h i hp hs hi => ?_⟩
  · have far : IsFar i := by
      obtain ⟨off, sel, rfl | rfl⟩ | ⟨m, rfl | rfl⟩ := hi
      · exact .jmp h off sel
      · exact .call h off sel
      · exact .jmpMem h m
      · exact .callMem h m
    exact far.refused hp
  · rw [exec_far_protected hp hi]
    refine ⟨fun hg => ?_, fun hg => ⟨fun hn => ?_, fun he => ?_⟩⟩
    · rw [farProtected_beforeGdtr hg]; rfl
    · rw [farProtected_noEntry hg hn]; rfl
    · rw [farProtected_entry hg he, apply_ite (conclude s)]; rfl
  · obtain ⟨off, sel, rfl⟩ | ⟨m, rfl, hr⟩ := hi
    · rw [exec_callFar, callFar_beforeSs hp hs]; rfl
    · rw [exec_callFarMem_ready hr, callFar_beforeSs hp hs]; rfl

/-! ## Far JMP in real-address mode -/

theorem jumpFar_real {s : State} (hp : s.pe = false) (off : DWord) (sel : Word16) : jumpFar off sel s = .ok (farReal off sel s) := by
  simp [jumpFar, hp]

/-- The end of a far transfer writes CS, EIP and the mark of the prefetch queue (R132, R137, R138). -/
theorem farReal_frame (off : DWord) (sel : Word16) (s : State) :
    (farReal off sel s).eip = off ∧ SameData s (farReal off sel s) ∧ (farReal off sel s).eflags = s.eflags ∧
      (farReal off sel s).sys = { s.sys with
        seg := { s.seg with cs := { s.seg.cs with sel := sel, base := sel.setWidth 32 * 16 } }, prefetchStale := false } :=
  ⟨rfl, ⟨rfl, fun _ => rfl⟩, rfl, rfl⟩

/-- The base that a selector read from memory gives. -/
theorem realBase_farSelectorAt (s : State) (h : Hdr) (a : DWord) : (farSelectorAt s h a).setWidth 32 * 16 =
    BitVec.ofNat 32 (s.valueAt (a + BitVec.ofNat 32 h.os.bytes) 2 * 16) := by
  have hv := valueAt_lt s (a + BitVec.ofNat 32 h.os.bytes) 2
  apply BitVec.eq_of_toNat_eq
  rw [realBase_toNat, farSelectorAt, BitVec.toNat_ofNat, BitVec.toNat_ofNat]
  omega

/-- Settles O36: both forms end as every far transfer does, with the pointer of the instruction or of memory. -/
theorem jmpFarReal : Obligations.JmpFarReal := by
  refine fun s h hp => ⟨fun off sel => ⟨_, ?_, farReal_frame _ sel s⟩, ?_⟩
  · rw [exec_jmpFar, jumpFar_real hp]; rfl
  · rintro m a rfl hr
    have frame := farReal_frame (farOffsetAt s h (addrOf (operandAddr s h m))) (farSelectorAt s h (addrOf (operandAddr s h m))) s
    rw [realBase_farSelectorAt] at frame
    refine ⟨_, ?_, frame⟩
    rw [exec_jmpFarMem_ready hr, jumpFar_real hp]; rfl

/-! ## Far CALL in real-address mode -/

/-- A push of `n` bytes of `v`, stored at `a`, and nothing else (R134). -/
structure Pushed (s t : State) (n v : Nat) (a : DWord) : Prop where
  gpr : t.gpr = (s.setReg 16 .esp (s.reg 16 .esp - BitVec.ofNat 16 n)).gpr
  stored : Stored s t a n v
  wf : t.mem.wf = true
  eflags : t.eflags = s.eflags
  sys : t.sys = s.sys

theorem push_pushed {s : State} (hm : s.mem.wf = true) {n : Nat} {a : DWord} (hn : n ≤ 4)
    (ha : s.linear .ss ((s.reg 16 .esp - BitVec.ofNat 16 n).setWidth 32) = .ok a) (hp : Present s a n) (v : Nat) :
    ∃ t, push n v s = .ok t ∧ Pushed s t n v a := by
  obtain ⟨m, e, hw, st⟩ := push_ready (v := v) hm hn ha hp
  exact ⟨_, e, rfl, st, hw, rfl, rfl⟩

theorem Pushed.sp {s t : State} {n v : Nat} {a : DWord} (h : Pushed s t n v a) :
    t.reg 16 .esp = s.reg 16 .esp - BitVec.ofNat 16 n := by
  rw [State.reg, h.gpr]
  exact reg_setReg_same (by decide) s .esp _

/-- What can be accessed does not depend on registers and memory. -/
theorem Present.of_sys {s t : State} (h : t.sys = s.sys) {a : DWord} {n : Nat} (hp : Present s a n) : Present t a n := by
  have hcr0 : t.cr0 = s.cr0 := congrArg SystemView.cr0 h
  have hmap : t.memMap = s.memMap := congrArg SystemView.memMap h
  unfold Present State.pg
  rw [hcr0, hmap]
  exact hp

theorem linear_ok {s : State} {r : SReg} {off a : DWord} (h : s.linear r off = .ok a) : a = (s.seg.get r).base + off := by
  obtain ⟨b, hb, rfl⟩ := res_map_ok h
  unfold State.segBase refuse at hb
  split at hb
  · cases hb; rfl
  · cases hb

/-- The places of two pushes, one below the other in the 64K that SP addresses, do not overlap. -/
theorem pushes_apart {n : Nat} (hn : n = 2 ∨ n = 4) (b x : DWord) (sp : Word16)
    (h1 : within x (b + (sp - BitVec.ofNat 16 n).setWidth 32) n) :
    ¬ within x (b + (sp - BitVec.ofNat 16 (2 * n)).setWidth 32) n := by
  unfold within at *
  obtain rfl | rfl := hn <;> bv_omega

theorem sub_ofNat_twice (x : Word16) (n : Nat) : x - BitVec.ofNat 16 n - BitVec.ofNat 16 n = x - BitVec.ofNat 16 (2 * n) := by
  rw [two_mul, BitVec.ofNat_add, sub_add_eq_sub_sub]

/-- The places `a1` and `a2` of two pushes of `n` bytes, one after the other, can be accessed. -/
structure StackReady (s : State) (n : Nat) (a1 a2 : DWord) : Prop where
  first : s.linear .ss ((s.reg 16 .esp - BitVec.ofNat 16 n).setWidth 32) = .ok a1
  firstPresent : Present s a1 n
  second : s.linear .ss ((s.reg 16 .esp - BitVec.ofNat 16 (2 * n)).setWidth 32) = .ok a2
  secondPresent : Present s a2 n

theorem StackReady.apart {s : State} {n : Nat} {a1 a2 : DWord} (hr : StackReady s n a1 a2) (hn : n = 2 ∨ n = 4) {x : DWord}
    (hx : within x a1 n) : ¬ within x a2 n := by
  rw [linear_ok hr.first] at hx
  rw [linear_ok hr.second]
  exact pushes_apart hn _ x _ hx

/-- Two pushes of `n` bytes, that of `v` to `a1` and then that of `w` to `a2`: what is where, and that nothing else has changed. -/
structure PushedTwice (s t : State) (n v w : Nat) (a1 a2 : DWord) : Prop where
  esp : RegWritten 16 s t .esp (s.reg 16 .esp - BitVec.ofNat 16 (2 * n))
  first : ∀ x, within x a1 n → kindAt s.memMap x.toNat = .ram → t.byteAt x = storedByte x a1 v
  second : ∀ x, within x a2 n → kindAt s.memMap x.toNat = .ram → t.byteAt x = storedByte x a2 w
  outside : ∀ x, ¬ within x a1 n → ¬ within x a2 n → t.byteAt x = s.byteAt x
  eflags : t.eflags = s.eflags
  sys : t.sys = s.sys

theorem Pushed.twice {s t u : State} {n v w : Nat} {a1 a2 : DWord} (h : Pushed s t n v a1) (h' : Pushed t u n w a2)
    (apart : ∀ x, within x a1 n → ¬ within x a2 n) : PushedTwice s u n v w a1 a2 where
  esp := by
    refine (regWritten_setReg (by decide) s .esp _).congr ?_
    rw [h'.gpr, h.sp, sub_ofNat_twice, ← setReg_twice 16 (by decide) s .esp (s.reg 16 .esp - BitVec.ofNat 16 n)]
    simp only [setReg_gpr, h.gpr]
  first x hx hk := by
    obtain ⟨-, -, kept⟩ := h'.stored x
    obtain ⟨stored, -, -⟩ := h.stored x
    rw [kept (apart x hx), stored hx hk]
  second x hx hk := by
    have hmap : t.memMap = s.memMap := congrArg SystemView.memMap h.sys
    obtain ⟨stored, -, -⟩ := h'.stored x
    exact stored hx (hmap ▸ hk)
  outside x hx1 hx2 := by
    obtain ⟨-, -, kept⟩ := h.stored x
    obtain ⟨-, -, kept'⟩ := h'.stored x
    rw [kept' hx2, kept hx1]
  eflags := h'.eflags.trans h.eflags
  sys := h'.sys.trans h.sys

/-- Two pushes onto a stack that can be accessed (R134). -/
theorem push_push_ready {s : State} {n : Nat} {a1 a2 : DWord} (hm : s.mem.wf = true) (hn : n = 2 ∨ n = 4) (hr : StackReady s n a1 a2)
    (v w : Nat) : ∃ t u, push n v s = .ok t ∧ push n w t = .ok u ∧ PushedTwice s u n v w a1 a2 := by
  have hn4 : n ≤ 4 := by omega
  obtain ⟨t, e, h⟩ := push_pushed hm hn4 hr.first hr.firstPresent v
  have second : t.linear .ss ((t.reg 16 .esp - BitVec.ofNat 16 n).setWidth 32) = .ok a2 := by
    rw [h.sp, sub_ofNat_twice, ← hr.second]
    exact linear_congr (congrArg SystemView.seg h.sys) .ss _
  obtain ⟨u, e', h'⟩ := push_pushed h.wf hn4 second (.of_sys h.sys hr.secondPresent) w
  exact ⟨t, u, e, e', h.twice h' fun _ => hr.apart hn⟩

/-- Drawing the padding of a pushed selector counts one free value at most (log 6, log 20). -/
theorem drawPadding_eq (h : Hdr) (s : State) : ∃ c, drawPadding h s = { s with freeCount := c } := by
  unfold drawPadding
  split
  · exact ⟨s.freeCount, rfl⟩
  · exact ⟨s.freeCount + 1, rfl⟩

/-- The two low bytes pushed for CS are its selector's (R134; log 20). -/
theorem storedByte_pushedCs {x a : DWord} (hx : within x a 2) (h : Hdr) (s : State) :
    storedByte x a (pushedCs h s) = storedByte x a s.seg.cs.sel.toNat := by
  unfold pushedCs
  split
  · rfl
  · exact pad_byte _ _ _ hx

theorem callFar_real {s : State} (hp : s.pe = false) (hs : s.ssLoaded = true) (h : Hdr) (n : Nat) (off : DWord) (sel : Word16) :
    callFar h n off sel s = (push h.os.bytes (pushedCs h s) (drawPadding h s)).bind fun t =>
      (push h.os.bytes (s.eip + BitVec.ofNat 32 n).toNat t).map fun u => farReal off sel u := by
  simp only [callFar, hp, hs, Bool.not_true, Bool.false_eq_true, if_false]

/-- A far CALL that can make its pushes makes them and ends as a far JMP. -/
theorem callFar_ready {s : State} {h : Hdr} {a1 a2 : DWord} (hp : s.pe = false) (hs : s.ssLoaded = true) (hm : s.mem.wf = true)
    (hr : StackReady s h.os.bytes a1 a2) (n : Nat) (off : DWord) (sel : Word16) :
    ∃ u, callFar h n off sel s = .ok (farReal off sel u) ∧
      PushedTwice s u h.os.bytes (pushedCs h s) (s.eip + BitVec.ofNat 32 n).toNat a1 a2 := by
  obtain ⟨c, hc⟩ := drawPadding_eq h s
  have ready : StackReady { s with freeCount := c } h.os.bytes a1 a2 := ⟨hr.first, hr.firstPresent, hr.second, hr.secondPresent⟩
  obtain ⟨t, u, e, e', pushed⟩ := push_push_ready (s := { s with freeCount := c }) hm (bytes_cases h.os) ready (pushedCs h s)
    (s.eip + BitVec.ofNat 32 n).toNat
  refine ⟨u, ?_, ⟨pushed.esp, pushed.first, pushed.second, pushed.outside, pushed.eflags, pushed.sys⟩⟩
  rw [callFar_real hp hs, hc, e, ok_bind, e', ok_map]

/-- A far CALL whose pointer is `off` and `sel`, in the instruction or in memory. -/
theorem exec_callFar_pointer {s : State} {h : Hdr} {i : Instr} {off : DWord} {sel : Word16}
    (hi : i = .callFar h off sel ∨ ∃ m, i = .callFarMem h m ∧ AddrReady s (operandAddr s h m) (h.os.bytes + 2) ∧
      off = farOffsetAt s h (addrOf (operandAddr s h m)) ∧ sel = farSelectorAt s h (addrOf (operandAddr s h m))) :
    exec i s = conclude s (callFar h i.length ((off.setWidth h.os.bits).setWidth 32) sel s) := by
  obtain rfl | ⟨m, rfl, hr, rfl, rfl⟩ := hi
  · exact exec_callFar h off sel s
  · rw [exec_callFarMem_ready hr, farOffsetAt, offset_ofNat (valueAt_lt s _ _)]

/-- Settles O37: the pointer, then two pushes that do not overlap, then the end of every far transfer. -/
theorem callFarReal : Obligations.CallFarReal := by
  intro s h i off sel a1 a2 hp hs hm hi h1 p1 h2 p2
  obtain ⟨u, hu, pushed⟩ := callFar_ready hp hs hm ⟨h1, p1, h2, p2⟩ i.length ((off.setWidth h.os.bits).setWidth 32) sel
  obtain ⟨heip, ⟨hgpr, hmem⟩, hflags, hsys⟩ := farReal_frame ((off.setWidth h.os.bits).setWidth 32) sel u
  have hseg : u.seg = s.seg := congrArg SystemView.seg pushed.sys
  have two_le : 2 ≤ h.os.bytes := by obtain e | e := bytes_cases h.os <;> omega
  refine ⟨farReal _ sel u, ?_, pushed.esp.congr hgpr, fun x hx hk => ?_, fun x hx hk => ?_, fun x hx1 hx2 => ?_, heip,
    hflags.trans pushed.eflags, ?_⟩
  · rw [exec_callFar_pointer hi, hu, conclude_ok]
  · rw [hmem, pushed.first x (lt_of_lt_of_le hx two_le) hk, storedByte_pushedCs hx]
  · rw [hmem, pushed.second x hx hk]
  · rw [hmem, pushed.outside x hx1 hx2]
  · rw [hsys, pushed.sys, hseg]

end Sys2Proof.Machine

/-! # Near transfers and HLT

JMP and JNZ within the code segment (spec/40_control_transfers.md R130, R131, R135, R137), and HLT (R136). -/

namespace Sys2Proof.Machine

open Sys2Proof

/-- Settles O35: both forms set EIP to the relative target and clear the mark of the prefetch queue. -/
theorem jmpNear : Obligations.JmpNear := by
  intro s h i d hi
  have near : exec i s = .next (jumpNear h s i.length d) := by
    obtain ⟨rel, rfl, rfl⟩ | rfl := hi
    · rfl
    · rfl
  exact ⟨_, near, relTarget_toNat h s i.length d, ⟨rfl, fun _ => rfl⟩, rfl, rfl⟩

theorem exec_jnz_of_zf {s : State} (hz : s.eflags.zf = true) (h : Hdr) (rel : Byte) :
    exec (.jnzRel8 h rel) s = .next (s.advance (Instr.jnzRel8 h rel).length) :=
  if_pos hz

theorem exec_jnz_of_not_zf {s : State} (hz : s.eflags.zf = false) (h : Hdr) (rel : Byte) :
    exec (.jnzRel8 h rel) s = .next (s.setEip (relTarget h s (Instr.jnzRel8 h rel).length (rel.signExtend 32))) :=
  if_neg (by simp [hz])

/-- Settles O38: by ZF. -/
theorem jnzBranches : Obligations.JnzBranches := by
  intro s h rel
  cases hz : s.eflags.zf with
  | true => exact ⟨_, exec_jnz_of_zf hz h rel, ⟨rfl, fun _ => rfl⟩, rfl, rfl, fun _ => rfl, fun hf => nomatch hf⟩
  | false =>
    exact ⟨_, exec_jnz_of_not_zf hz h rel, ⟨rfl, fun _ => rfl⟩, rfl, rfl, fun hf => (nomatch hf), fun _ => relTarget_toNat h s _ _⟩

/-- Settles O39: where the privilege check passes, HLT has no other effect than EIP and the run state. -/
theorem hltHalts : Obligations.HltHalts := by
  intro s h hp
  refine ⟨{ s.advance (Instr.hlt h).length with run := .halted }, ?_, ⟨rfl, fun _ => rfl⟩, rfl, rfl, rfl⟩
  change execHlt h s = _
  rw [execHlt, requireCpl0_of_privileged hp]
  rfl

end Sys2Proof.Machine

/-! # Control registers

MOV to and from CR0 and CR3 (spec/41_control_register_moves.md R150 to R157), and what every step keeps of the mode and the
privilege level (R155; 60_exceptions.md R271). -/

namespace Sys2Proof.Machine

open Sys2Proof

/-! ## The mode and the privilege level over a step -/

/-- PG within protected mode, at privilege level 0. -/
def ModeKept (s : State) : Prop := PagingNeedsPe s ∧ CplZero s

/-- Both depend on CR0 and CPL alone. -/
theorem ModeKept.congr {s t : State} (h : ModeKept s) (hcr0 : t.cr0 = s.cr0) (hcpl : t.cpl = s.cpl) : ModeKept t := by
  simpa only [ModeKept, PagingNeedsPe, CplZero, State.pg, State.pe, hcr0, hcpl] using h

theorem Quiet.modeKept {s t : State} (hq : Quiet s t) (h : ModeKept s) : ModeKept t :=
  h.congr (congrArg SystemView.cr0 hq.sys) (congrArg SystemView.cpl hq.sys)

theorem takeReset_pg (s : State) (p : ResetParams) : (s.takeReset p).pg = false := resetCr0_pg _ _

theorem takeReset_modeKept (s : State) (p : ResetParams) : ModeKept (s.takeReset p) :=
  ⟨fun hpg => by simp [takeReset_pg] at hpg, rfl⟩

/-- Entering protected mode sets CPL to 0, and no other write of CR0 changes it (41 R154). -/
theorem cplAfterCr0_of_zero {s : State} (h : s.cpl = 0) (v : DWord) : cplAfterCr0 s v = 0 := by
  simp [cplAfterCr0, h]

/-- A special update leaves CR0 and CPL as they were, or is a write of CR0, which does not set PG without PE. -/
theorem Special.modeKept {i : Instr} {s t : State} (h : Special s i t) (hs : ModeKept s) : ModeKept t := by
  cases h with
  | cr0Written h r hp hpg hpe => exact ⟨hpg, cplAfterCr0_of_zero hs.2 _⟩
  | segLoaded h sr rm v =>
    have noted := (noteSsLoad_sys sr (s.setSeg sr v)).1
    exact hs.congr (congrArg SystemView.cr0 noted) (congrArg SystemView.cpl noted)
  | _ => exact hs

/-- Settles O57: by the cases of a step; RESET clears PG and CPL, and only MOV to CR0 writes CR0 and CPL afterwards. -/
theorem modeInvariant : Obligations.ModeInvariant := fun _ _ hs h =>
  step_keeps (P := ModeKept) takeReset_modeKept (fun _ hs _ _ _ _ => hs) Special.modeKept Quiet.modeKept hs h

/-! ## MOV to CR3 -/

/-- An entry after a write of CR3: not valid, and as rewritten as before unless this write begins the rewriting (41 R153; log 24). -/
theorem tlbAfterCr3_entry (s : State) (b : BitVec 2) (i : BitVec 3) : Tlb.entry (tlbAfterCr3 s) b i =
    { Tlb.entry s.tlb b i with
      v := false
      rewritten := if s.tlbMark = .undefined then false else (Tlb.entry s.tlb b i).rewritten } := by
  unfold tlbAfterCr3
  split
  · rw [entry_mapEntries, clearValid_entry]
  · rw [clearValid_entry]

theorem afterCr3_of_ne_clean {m : TlbMark} (h : m ≠ .clean) : m.afterCr3 = .undefinedV0 := by
  cases m with
  | clean => exact absurd rfl h
  | undefined => rfl
  | undefinedV0 => rfl

theorem exec_movCr3R_privileged {s : State} (hp : Privileged s) (h : Hdr) (r : Reg) :
    exec (.movCr3R h r) s = .next ((writeCr3 s (s.reg 32 r)).endSpecial (Instr.movCr3R h r).length) := by
  change execMovCr3R h r s = _
  rw [execMovCr3R, requireCpl0_of_privileged hp, ok_map, conclude_ok]

@[simp] theorem writeCr3_tlb (s : State) (v : DWord) : (writeCr3 s v).tlb = tlbAfterCr3 s := rfl
@[simp] theorem writeCr3_tlbMark (s : State) (v : DWord) : (writeCr3 s v).tlbMark = s.tlbMark.afterCr3 := rfl

/-! ## MOV to CR0 -/

section Cr0

variable {s : State} (hp : Privileged s) (h : Hdr) (r : Reg)

include hp

/-- Where MOV to CR0 is allowed, PG without PE raises, the clearing of PE is refused, and any other value is written (41 R151, R155,
R156). -/
theorem exec_movCr0R_privileged : exec (.movCr0R h r) s =
    if (s.reg 32 r).getLsbD 31 && !(s.reg 32 r).getLsbD 0 then takeEvent (.exception (.generalProtection 0)) s
    else if s.pe && !(s.reg 32 r).getLsbD 0 then .refused .leavesProtectedMode
    else .next (writeCr0 s (s.reg 32 r) (Instr.movCr0R h r).length) := by
  change execMovCr0R h r s = _
  rw [execMovCr0R, requireCpl0_of_privileged hp, ok_bind, apply_ite (conclude s), apply_ite (conclude s)]
  rfl

theorem exec_movCr0R_allowed (hpg : (s.reg 32 r).getLsbD 31 = true → (s.reg 32 r).getLsbD 0 = true)
    (hpe : s.pe = true → (s.reg 32 r).getLsbD 0 = true) :
    exec (.movCr0R h r) s = .next (writeCr0 s (s.reg 32 r) (Instr.movCr0R h r).length) := by
  rw [exec_movCr0R_privileged hp, if_neg (by simpa using hpg), if_neg (by simpa using hpe)]

end Cr0

/-- What a write of CR0 leaves of the system registers (41 R151, R154, R157). -/
theorem writeCr0_sys (s : State) (v : DWord) (n : Nat) : (writeCr0 s v n).sys =
    { s.sys with cr0 := v, cpl := cplAfterCr0 s v, prefetchStale := staleAfterCr0 s v } := rfl

theorem cplAfterCr0_eq (s : State) (v : DWord) :
    cplAfterCr0 s v = if s.pe = false ∧ v.getLsbD 0 = true then 0 else s.cpl := by
  simp [cplAfterCr0]

/-- Settles O17: by the two checks of MOV to CR0; a value with PG and PE passes both. -/
theorem pagingNeedsProtection : Obligations.PagingNeedsProtection := by
  intro s h r hp
  refine ⟨fun hpg hpe => ?_, fun hpg hpe => ?_, fun hs hpg hpe => ?_⟩
  · rw [exec_movCr0R_privileged hp, hpg, hpe]; rfl
  · exact ⟨_, exec_movCr0R_allowed hp h r (fun _ => hpe) (fun _ => hpe), hpg, hpe⟩
  · rw [exec_movCr0R_privileged hp, hs, hpg, hpe]; rfl

/-! ## MOV from CR0 and CR3 -/

/-- A read of a special register writes one general register, and flags that may be anything (41 R150; 44 R238). -/
theorem readSpecial_frame (s : State) (r : Reg) (v : DWord) (n : Nat) :
    RegWritten 32 s ((s.setReg 32 r v).endSpecial n) r v ∧ SameBytes s ((s.setReg 32 r v).endSpecial n) ∧
      DataAndFlags s ((s.setReg 32 r v).endSpecial n) n :=
  ⟨(regWritten_setReg (by decide) s r v).congr rfl, fun _ => rfl, rfl, sameControlFlags_undefined _ _, rfl⟩

theorem exec_movRCr0_privileged {s : State} (hp : Privileged s) (h : Hdr) (r : Reg) :
    exec (.movRCr0 h r) s = .next ((s.setReg 32 r s.cr0).endSpecial (Instr.movRCr0 h r).length) := by
  change execMovRCr0 h r s = _
  rw [execMovRCr0, readSpecial_ready hp, conclude_ok]

theorem exec_movRCr3_privileged {s : State} (hp : Privileged s) (h : Hdr) (r : Reg) :
    exec (.movRCr3 h r) s = .next ((s.setReg 32 r s.cr3).endSpecial (Instr.movRCr3 h r).length) := by
  change execMovRCr3 h r s = _
  rw [execMovRCr3, readSpecial_ready hp, conclude_ok]

/-- Settles O40: both moves are reads of a special register. -/
theorem readControlRegister : Obligations.ReadControlRegister := by
  intro s h r i v hp hi
  obtain ⟨rfl, rfl⟩ | ⟨rfl, rfl⟩ := hi
  · exact ⟨_, exec_movRCr0_privileged hp h r, readSpecial_frame s r s.cr0 _⟩
  · exact ⟨_, exec_movRCr3_privileged hp h r, readSpecial_frame s r s.cr3 _⟩

end Sys2Proof.Machine

/-! # Writes of the control registers

The two statements that have the names of the model's own functions, which stand in another namespace. -/

namespace Sys2Proof.Laws

open Sys2Proof Sys2Proof.Machine

/-- Settles O42: entry by entry, and by the three values of the mark. -/
theorem writeCr3 : Obligations.WriteCr3 := by
  intro s h r hp
  refine ⟨_, exec_movCr3R_privileged hp h r, ⟨rfl, fun _ => rfl⟩, sameControlFlags_undefined _ _, rfl, ?_⟩
  rw [endSpecial_tlb, endSpecial_tlbMark, writeCr3_tlb, writeCr3_tlbMark]
  refine ⟨fun b i => ?_, fun hm => ?_, afterCr3_of_ne_clean, fun hm b i => ?_, fun hm b i => ?_, rfl⟩
  · rw [tlbAfterCr3_entry]
    exact ⟨rfl, rfl, rfl, rfl, rfl, rfl, rfl⟩
  · rw [hm]; rfl
  · rw [tlbAfterCr3_entry, if_pos hm]
  · rw [tlbAfterCr3_entry, if_neg (by simp [hm])]

/-- Settles O41: a value that passes both checks is written, and nothing else is but what every special move ends with. -/
theorem writeCr0 : Obligations.WriteCr0 := by
  intro s h r hp hpg hpe
  refine ⟨_, exec_movCr0R_allowed hp h r hpg hpe, ⟨rfl, fun _ => rfl⟩, sameControlFlags_undefined _ _, rfl, ?_⟩
  rw [writeCr0_sys, cplAfterCr0_eq]
  rfl

end Sys2Proof.Laws

/-! # Table registers

LGDT and LIDT (spec/42_descriptor_tables_and_segments.md R170, R171, R177). -/

namespace Sys2Proof.Machine

open Sys2Proof

/-- The pword at `a`: a limit of two bytes, then a base of three bytes under operand size 16 and of four under 32 (20_memory.md R83). -/
def pwordAt (s : State) (os : Size) (a : DWord) : TableReg :=
  { base := BitVec.ofNat 32 (s.valueAt (a + 2) (if os = .s16 then 3 else 4)), limit := BitVec.ofNat 16 (s.valueAt a 2) }

/-- The low 24 bits of four bytes are the first three of them. -/
theorem valueAt_four_mod (s : State) (a : DWord) : s.valueAt a 4 % 2 ^ 24 = s.valueAt a 3 := by
  have hlt := valueAt_lt s a 3
  rw [valueAt_four, ← valueAt_three]
  omega

theorem tableBase_valueAt (os : Size) (s : State) (a : DWord) :
    tableBase os (s.valueAt a 4) = BitVec.ofNat 32 (s.valueAt a (if os = .s16 then 3 else 4)) := by
  cases os with
  | s16 => exact congrArg (BitVec.ofNat 32) (valueAt_four_mod s a)
  | s32 => rfl

section Pword

variable {s : State} {h : Hdr} {m : Mem} (hr : AddrReady s (operandAddr s h m) 6)

include hr

theorem readPword_ready : readPword h m s = .ok (pwordAt s h.os (addrOf (operandAddr s h m))) := by
  obtain ⟨ha, hp⟩ := hr
  have limit : Present s (addrOf (operandAddr s h m)) 2 := by simpa using hp.sub 0 2 (by decide)
  have base : Present s (addrOf (operandAddr s h m) + 2) 4 := hp.sub 2 4 (by decide)
  rw [readPword, ha, ok_bind, addrOf, readMem_present limit, ok_bind, readMem_present base, ok_map, tableBase_valueAt]
  rfl

theorem exec_lgdt_ready (hp : Privileged s) : exec (.lgdt h m) s =
    .next (({ s with gdtr := pwordAt s h.os (addrOf (operandAddr s h m)), gdtrLoaded := true }).advance (Instr.lgdt h m).length) := by
  change execLgdt h m s = _
  rw [execLgdt, requireCpl0_of_privileged hp, ok_bind, readPword_ready hr, ok_map, conclude_ok]

theorem exec_lidt_ready (hp : Privileged s) : exec (.lidt h m) s =
    .next (({ s with idtr := pwordAt s h.os (addrOf (operandAddr s h m)) }).advance (Instr.lidt h m).length) := by
  change execLidt h m s = _
  rw [execLidt, requireCpl0_of_privileged hp, ok_bind, readPword_ready hr, ok_map, conclude_ok]

end Pword

/-- Settles O48: both read the pword and write one table register. -/
theorem loadTables : Obligations.LoadTables := by
  rintro s h m v hp hr rfl
  exact ⟨⟨_, exec_lgdt_ready hr hp, ⟨rfl, fun _ => rfl⟩, rfl, rfl, rfl⟩,
    ⟨_, exec_lidt_ready hr hp, ⟨rfl, fun _ => rfl⟩, rfl, rfl, rfl⟩⟩

end Sys2Proof.Machine

/-! # Descriptors read from memory

LTR and LAR (spec/42_descriptor_tables_and_segments.md R172, R173). -/

namespace Sys2Proof.Machine

open Sys2Proof

theorem selInside_iff {sel : Word16} {limit : Nat} : selInside sel limit = true ↔ (selOffset sel).toNat + 7 ≤ limit :=
  decide_eq_true_iff

theorem selInside_eq_false_iff {sel : Word16} {limit : Nat} : selInside sel limit = false ↔ limit < (selOffset sel).toNat + 7 := by
  rw [← Bool.not_eq_true, selInside_iff, not_le]

/-- The descriptor whose bytes stand at `a` (20_memory.md R81). -/
def descAt (s : State) (a : DWord) : Desc :=
  { base := descBase s a, limit := descLimit s a, access := s.byteAt (a + 5), gran := s.byteAt (a + 6) }

theorem readDesc_eq_descAt {s : State} {a : DWord} (hp : Present s a 8) : s.readDesc a = .ok (descAt s a) := by
  obtain ⟨⟨base, limit, access, gran⟩, hd, rfl, rfl, rfl, rfl⟩ := readDesc_present hp
  exact hd

/-! ## LTR -/

/-- The task register loaded with selector `sel` from the descriptor at `a`. -/
def State.withTr (s : State) (sel : Word16) (a : DWord) : State :=
  { s with tr := { sel := sel, base := descBase s a, limit := descLimit s a } }

theorem requireProtected_ok {s : State} (hp : s.pe = true) : s.requireProtected = .ok () := if_pos hp

theorem exec_ltr_ready {s : State} {h : Hdr} {rm : RM Reg} (hp : s.pe = true) (hc : s.cpl = 0) (hr : RmReady s h rm 2) :
    exec (.ltr h rm) s = conclude s ((loadTr (rmValue 16 s h rm) s).map fun t => t.advance (Instr.ltr h rm).length) := by
  change execLtr h rm s = _
  rw [execLtr, requireProtected_ok hp, ok_bind, requireCpl0_of_privileged (.inr hc), ok_bind, readRm_ready (w := 16) hr, ok_bind]

theorem loadTr_outside {s : State} {sel : Word16} (ho : s.gdtr.limit.toNat < (selOffset sel).toNat + 7) :
    loadTr sel s = raise (.generalProtection sel) := by
  simp [loadTr, selInside_eq_false_iff.mpr ho]

/-- Inside the limit the access byte decides (R172). -/
theorem loadTr_inside {s : State} {sel : Word16} (hi : (selOffset sel).toNat + 7 ≤ s.gdtr.limit.toNat)
    (hp : Present s (s.gdtAddr sel) 8) :
    loadTr sel s =
      if accAvailableTss (s.byteAt (s.gdtAddr sel + 5)) then
        (s.withTr sel (s.gdtAddr sel)).writeByte (s.gdtAddr sel + 5) (s.byteAt (s.gdtAddr sel + 5) ||| 0x02)
      else raise (.generalProtection sel) := by
  rw [loadTr, selInside_iff.mpr hi, readDesc_eq_descAt hp]
  rfl

/-- Settles O19: by the two checks of LTR. -/
theorem ltrTraps : Obligations.LtrTraps := by
  refine fun s h rm hp hc hr => ⟨fun ho => ?_, fun hi hpres hn => ?_⟩
  · rw [exec_ltr_ready hp hc hr, loadTr_outside ho]; rfl
  · have unavailable : ¬ accAvailableTss (s.byteAt (s.gdtAddr (rmValue 16 s h rm) + 5)) = true := by
      rw [accAvailableTss_iff]
      rintro ⟨hpresent, htype⟩
      obtain hn | ⟨h9, h1⟩ := hn
      · exact Bool.false_ne_true (hn.symm.trans hpresent)
      · exact htype.elim h9 h1
    rw [exec_ltr_ready hp hc hr, loadTr_inside hi hpres, if_neg unavailable]; rfl

/-- An available TSS: the task register is loaded, and the one byte that is stored is the access byte. -/
theorem loadTr_available {s : State} {sel : Word16} (hm : s.mem.wf = true) (hi : (selOffset sel).toNat + 7 ≤ s.gdtr.limit.toNat)
    (hp : Present s (s.gdtAddr sel) 8) (ha : accAvailableTss (s.byteAt (s.gdtAddr sel + 5)) = true) :
    ∃ m, loadTr sel s = .ok ((s.withTr sel (s.gdtAddr sel)).setMem m) ∧
      Stored s ((s.withTr sel (s.gdtAddr sel)).setMem m) (s.gdtAddr sel + 5) 1 (s.byteAt (s.gdtAddr sel + 5) ||| 0x02).toNat := by
  obtain ⟨m, hw, stored, -⟩ := writeByte_ready (s := s.withTr sel (s.gdtAddr sel)) (b := s.byteAt (s.gdtAddr sel + 5) ||| 0x02) hm
    (hp.sub 5 1 (by decide))
  exact ⟨m, by rw [loadTr_inside hi hp, if_pos ha]; exact hw, stored⟩

/-- Settles O49: an available TSS passes both checks of LTR. -/
theorem ltrLoads : Obligations.LtrLoads := by
  rintro s h rm sel a hp hc hm hr rfl rfl hi hpres hpresent htype
  obtain ⟨m, hl, stored⟩ := loadTr_available hm hi hpres ((accAvailableTss_iff _).mpr ⟨hpresent, htype⟩)
  have ends := exec_ltr_ready hp hc hr
  rw [hl, ok_map, conclude_ok] at ends
  exact ⟨_, ends, rfl, stored, rfl, rfl, rfl⟩

/-! ## LAR -/

/-- A register or memory operand of an operand size is read whole. -/
theorem readRm_size_ready {sz : Size} {s : State} {h : Hdr} {rm : RM Reg} (hr : RmReady s h rm sz.bytes) :
    readRm sz.bits s h rm = .ok (rmValue sz.bits s h rm) := by
  cases sz with
  | s16 => exact readRm_ready (w := 16) hr
  | s32 => exact readRm_ready (w := 32) hr

theorem exec_lar_ready {s : State} {h : Hdr} {r : Reg} {rm : RM Reg} (hp : s.pe = true) (hr : RmReady s h rm h.os.bytes) :
    exec (.lar h r rm) s = conclude s ((larLoad h.os.bits r ((rmValue h.os.bits s h rm).setWidth 16) s).map
      fun t => t.advance (Instr.lar h r rm).length) := by
  change execLar h r rm s = _
  rw [execLar, requireProtected_ok hp, ok_bind, readRm_size_ready hr, ok_bind]

theorem larResult_size (sz : Size) (hi : DWord) :
    larResult sz.bits hi = (hi &&& (if sz = .s16 then 0x0000FF00 else 0x00F0FF00)).setWidth sz.bits := by
  cases sz <;> rfl

section Lar

variable {s : State} {sel : Word16} (w : Nat) (r : Reg)

/-- A selector that names no descriptor: null, or past the limit of its table. -/
theorem larLoad_noEntry (hn : selNull sel = true ∨ (selTable s sel).2 < (selOffset sel).toNat + 7) :
    larLoad w r sel s = .ok (s.setZf false) := by
  refine if_pos ?_
  obtain hn | hn := hn
  · rw [hn, Bool.true_or]
  · rw [selInside_eq_false_iff.mpr hn, Bool.not_false, Bool.or_true]

/-- Where there is a descriptor, its second doubleword decides (R173). -/
theorem larLoad_entry (hn : selNull sel = false) (hi : (selOffset sel).toNat + 7 ≤ (selTable s sel).2)
    (hp : Present s ((selTable s sel).1 + selOffset sel + 4) 4) :
    larLoad w r sel s = .ok
      (if larAccepts s sel (BitVec.ofNat 32 (s.valueAt ((selTable s sel).1 + selOffset sel + 4) 4)) then
        (s.setReg w r (larResult w (BitVec.ofNat 32 (s.valueAt ((selTable s sel).1 + selOffset sel + 4) 4)))).setZf true
      else s.setZf false) := by
  rw [larLoad, hn, selInside_iff.mpr hi, readMem_present hp]
  rfl

end Lar

theorem Size.bits_le (sz : Size) : sz.bits ≤ 32 := by cases sz <;> decide

/-- Settles O50: by whether the selector names a descriptor, and whether LAR accepts it. -/
theorem larReports : Obligations.LarReports := by
  rintro s h r rm sel hi hp hr rfl rfl
  have ends {u : State} (hl : larLoad h.os.bits r ((rmValue h.os.bits s h rm).setWidth 16) s = .ok u) :
      exec (.lar h r rm) s = .next (u.advance (Instr.lar h r rm).length) := by
    rw [exec_lar_ready hp hr, hl, ok_map, conclude_ok]
  refine ⟨fun hn => ?_, fun hn hi hpres => ⟨fun ha => ?_, fun ha => ?_⟩⟩
  · exact ⟨_, ends (larLoad_noEntry _ r hn), ⟨rfl, fun _ => rfl⟩, rfl, rfl, rfl⟩
  · have rejected := larLoad_entry h.os.bits r hn hi hpres
    rw [ha] at rejected
    exact ⟨_, ends rejected, ⟨rfl, fun _ => rfl⟩, rfl, rfl, rfl⟩
  · have accepted := larLoad_entry h.os.bits r hn hi hpres
    rw [ha, larResult_size] at accepted
    exact ⟨_, ends accepted, (regWritten_setReg (Size.bits_le h.os) s r _).congr rfl, fun _ => rfl, rfl, rfl, rfl⟩

end Sys2Proof.Machine

/-! # Segment loads

MOV to a segment register other than CS (spec/42_descriptor_tables_and_segments.md R174, R175; 70_reset_and_hazards.md R293, R296). -/

namespace Sys2Proof.Machine

open Sys2Proof

theorem exec_movSregRm_ready {s : State} {h : Hdr} {sr : SReg} {rm : RM Reg} (hsr : sr ≠ .cs) (hr : RmReady s h rm 2) :
    exec (.movSregRm h sr rm) s =
      conclude s ((if s.pe then loadSegProtected sr (rmValue 16 s h rm) s else .ok (loadSegReal sr (rmValue 16 s h rm) s)).map
        fun t => t.advance (Instr.movSregRm h sr rm).length) := by
  change execMovSregRm h sr rm s = _
  rw [execMovSregRm, if_neg hsr, readRm_ready (w := 16) hr, ok_bind]

/-! ## What a load leaves -/

/-- Segment register `sr` written with `v`, and a load of SS noted. -/
def State.withSeg (s : State) (sr : SReg) (v : SegReg) : State :=
  { s with seg := s.seg.set sr v, ssLoaded := s.ssLoaded || decide (sr = .ss), holdOff := s.holdOff || decide (sr = .ss) }

theorem noteSsLoad_setSeg (s : State) (sr : SReg) (v : SegReg) : noteSsLoad sr (s.setSeg sr v) = s.withSeg sr v := by
  unfold noteSsLoad State.withSeg
  by_cases h : sr = .ss
  · simp [h, State.setSeg]
  · simp [h, State.setSeg]

/-- From `s` to `t` an instruction of `n` bytes has written segment register `sr` with `v`, noted a load of SS, and perhaps written
memory. -/
structure SegLoaded (sr : SReg) (v : SegReg) (n : Nat) (s t : State) : Prop where
  gpr : t.gpr = s.gpr
  eflags : t.eflags = s.eflags
  eip : t.eip = s.nextEip n
  loaded : t.seg.get sr = v
  others : ∀ q, q ≠ sr → t.seg.get q = s.seg.get q
  sys : t.sys = { s.sys with
    seg := t.seg, ssLoaded := s.ssLoaded || decide (sr = .ss), holdOff := s.holdOff || decide (sr = .ss) }

theorem segLoaded_withSeg {sr : SReg} (hsr : sr ≠ .cs) (s : State) (v : SegReg) (m : Memory) (n : Nat) :
    SegLoaded sr v n s (((s.withSeg sr v).setMem m).advance n) where
  gpr := rfl
  eflags := rfl
  eip := nextEip_setSeg s v hsr n
  loaded := Segs.get_set_same s.seg sr v
  others _ hq := Segs.get_set_other s.seg v hq
  sys := rfl

/-- Settles O51: in real-address mode a load writes the selector and the base. -/
theorem segmentLoadReal : Obligations.SegmentLoadReal := by
  intro s h sr rm hp hsr hr
  have load := segLoaded_withSeg hsr s
    { s.seg.get sr with sel := rmValue 16 s h rm, base := (rmValue 16 s h rm).setWidth 32 * 16 } s.mem (Instr.movSregRm h sr rm).length
  refine ⟨_, ?_, ⟨load.gpr, fun _ => rfl⟩, load.eflags, load.eip, load.loaded, load.others, load.sys⟩
  rw [exec_movSregRm_ready hsr hr, hp, loadSegReal, noteSsLoad_setSeg]
  rfl

/-! ## The cases of a load in protected mode -/

theorem exec_movSregRm_protected {s : State} {h : Hdr} {sr : SReg} {rm : RM Reg} (hp : s.pe = true) (hsr : sr ≠ .cs)
    (hr : RmReady s h rm 2) : exec (.movSregRm h sr rm) s =
      conclude s ((loadSegProtected sr (rmValue 16 s h rm) s).map fun t => t.advance (Instr.movSregRm h sr rm).length) := by
  rw [exec_movSregRm_ready hsr hr, if_pos hp]

section Cases

variable {s : State} {sel : Word16} (sr : SReg)

theorem loadSegProtected_beforeGdtr (hg : s.gdtrLoaded = false) : loadSegProtected sr sel s = refuse .segmentLoadBeforeGdtr := by
  simp [loadSegProtected, hg]

variable (hg : s.gdtrLoaded = true)

include hg

theorem loadSegProtected_null (hn : selNull sel = true) :
    loadSegProtected sr sel s = if sr = .ss then raise (.generalProtection 0) else .ok (loadSegNull sr sel s) := by
  simp [loadSegProtected, hg, hn]

theorem loadSegProtected_ldt (hn : selNull sel = false) (hl : selLdt sel = true) :
    loadSegProtected sr sel s = refuse .ldtSelector := by
  simp [loadSegProtected, hg, hn, hl]

theorem loadSegProtected_outside (hn : selNull sel = false) (hl : selLdt sel = false)
    (ho : s.gdtr.limit.toNat < (selOffset sel).toNat + 7) : loadSegProtected sr sel s = raise (.generalProtection sel) := by
  simp [loadSegProtected, hg, hn, hl, selInside_eq_false_iff.mpr ho]

/-- A selector of the GDT: its access byte decides (R175). -/
theorem loadSegProtected_entry (he : GdtEntry s sel) : loadSegProtected sr sel s =
    if segmentOk sr (s.byteAt (s.gdtAddr sel + 5)) s.cpl (sel.extractLsb' 0 2) then
      markAccessed (s.gdtAddr sel) (descAt s (s.gdtAddr sel)) (s.withSeg sr (segOfDesc sel (descAt s (s.gdtAddr sel))))
    else refuse .descriptorCheck := by
  obtain ⟨hn, hl, hi, hp⟩ := he
  have byGdt : loadSegProtected sr sel s = loadSegGdt sr sel s := by
    simp [loadSegProtected, hg, hn, hl, selInside_iff.mpr hi]
  rw [byGdt, loadSegGdt, readDesc_eq_descAt hp, ok_bind, noteSsLoad_setSeg]
  rfl

end Cases

theorem GdtEntry.accessPresent {s : State} {sel : Word16} (he : GdtEntry s sel) : Present s (s.gdtAddr sel + 5) 1 := by
  obtain ⟨-, -, -, hp⟩ := he
  exact hp.sub 5 1 (by decide)

/-- Marking the descriptor at `a` accessed: nothing where it is, its access byte stored where it is not (20_memory.md R78). -/
theorem markAccessed_ready {s : State} {a : DWord} {d : Desc} (hm : s.mem.wf = true) (hp : Present s (a + 5) 1) :
    ∃ m, markAccessed a d s = .ok (s.setMem m) ∧ (d.access.getLsbD 0 = true → m = s.mem) ∧
      (d.access.getLsbD 0 = false → Stored s (s.setMem m) (a + 5) 1 (d.access ||| 0x01).toNat) := by
  unfold markAccessed
  cases d.access.getLsbD 0 with
  | true => exact ⟨s.mem, rfl, fun _ => rfl, fun hf => nomatch hf⟩
  | false =>
    obtain ⟨m, hw, stored, -⟩ := writeByte_ready hm hp
    exact ⟨m, hw, fun hf => (nomatch hf), fun _ => stored⟩

/-- A suitable descriptor: the register is loaded from it, and it is marked accessed. -/
theorem loadSegProtected_suitable {s : State} {sr : SReg} {sel : Word16} (hg : s.gdtrLoaded = true) (hm : s.mem.wf = true)
    (he : GdtEntry s sel) (ok : segmentOk sr (s.byteAt (s.gdtAddr sel + 5)) s.cpl (sel.extractLsb' 0 2) = true) :
    ∃ m, loadSegProtected sr sel s = .ok ((s.withSeg sr (segOfDesc sel (descAt s (s.gdtAddr sel)))).setMem m) ∧
      ((s.byteAt (s.gdtAddr sel + 5)).getLsbD 0 = true → m = s.mem) ∧
      ((s.byteAt (s.gdtAddr sel + 5)).getLsbD 0 = false →
        Stored s ((s.withSeg sr (segOfDesc sel (descAt s (s.gdtAddr sel)))).setMem m) (s.gdtAddr sel + 5) 1
          (s.byteAt (s.gdtAddr sel + 5) ||| 0x01).toNat) := by
  obtain ⟨m, marked, already, stored⟩ := markAccessed_ready (s := s.withSeg sr (segOfDesc sel (descAt s (s.gdtAddr sel))))
    (d := descAt s (s.gdtAddr sel)) hm he.accessPresent
  exact ⟨m, by rw [loadSegProtected_entry sr hg he, if_pos ok]; exact marked, already, stored⟩

/-- Settles O52: a null selector marks the register only; a suitable descriptor loads it and is marked accessed. -/
theorem segmentLoadProtected : Obligations.SegmentLoadProtected := by
  rintro s h sr rm sel a hp hsr hg hm hr rfl rfl
  have ends := exec_movSregRm_protected hp hsr hr
  refine ⟨fun hn hss => ?_, fun he ok => ?_⟩
  · rw [loadSegProtected_null sr hg hn, if_neg hss, ok_map, conclude_ok] at ends
    exact ⟨_, ends, ⟨rfl, fun _ => rfl⟩, rfl, nextEip_setSeg s _ hsr _, Segs.get_set_same s.seg sr _,
      fun _ hq => Segs.get_set_other s.seg _ hq, rfl⟩
  · obtain ⟨m, hl, already, stored⟩ := loadSegProtected_suitable hg hm he ok
    rw [hl, ok_map, conclude_ok] at ends
    have load := segLoaded_withSeg hsr s (segOfDesc (rmValue 16 s h rm) (descAt s (s.gdtAddr (rmValue 16 s h rm)))) m
      (Instr.movSregRm h sr rm).length
    exact ⟨_, ends, load.gpr, load.eflags, load.eip, load.loaded, load.others,
      fun hb x => congrArg (fun l : Memory => l.get x.toNat) (already hb), stored, load.sys⟩

/-! ## Stops -/

theorem privilegeOk_iff {a : Byte} {cpl rpl : BitVec 2} :
    privilegeOk a cpl rpl = true ↔ cpl ≤ a.extractLsb' 5 2 ∧ rpl ≤ a.extractLsb' 5 2 := by
  rw [privilegeOk, Bool.and_eq_true, decide_eq_true_iff, decide_eq_true_iff]; rfl

/-- The checks of R175 on the access byte, bit by bit. -/
theorem segmentOk_iff (sr : SReg) (a : Byte) (cpl rpl : BitVec 2) : segmentOk sr a cpl rpl = true ↔
    a.getLsbD 7 = true ∧ a.getLsbD 4 = true ∧
      (sr = .ss → a.getLsbD 3 = false ∧ a.getLsbD 1 = true ∧ rpl = cpl ∧ a.extractLsb' 5 2 = cpl) ∧
      (sr ≠ .ss → (a.getLsbD 3 = true → a.getLsbD 1 = true) ∧
        (a.getLsbD 3 = false ∨ a.getLsbD 2 = false → cpl ≤ a.extractLsb' 5 2 ∧ rpl ≤ a.extractLsb' 5 2)) := by
  rw [← privilegeOk_iff]
  unfold segmentOk accPresent accSegment accCode accReadWrite accConforming accDpl
  by_cases hs : sr = .ss
  · simp [hs, and_assoc]
  · cases a.getLsbD 3 <;> cases a.getLsbD 2 <;> simp [hs, and_assoc]

/-- Settles O18: the checks bit by bit, and one case for each stop. -/
theorem segmentLoadStops : Obligations.SegmentLoadStops := by
  refine ⟨segmentOk_iff, fun s h sr rm hp hsr hr => ?_⟩
  rw [exec_movSregRm_protected hp hsr hr]
  refine ⟨fun hg => ?_, fun hg => ⟨fun hss hn => ?_, fun hn hl => ?_, fun hn hl ho => ?_, fun he bad => ?_⟩⟩
  · rw [loadSegProtected_beforeGdtr sr hg]; rfl
  · rw [loadSegProtected_null sr hg hn, if_pos hss]; rfl
  · rw [loadSegProtected_ldt sr hg hn hl]; rfl
  · rw [loadSegProtected_outside sr hg hn hl ho]; rfl
  · rw [loadSegProtected_entry sr hg he, bad]; rfl

end Sys2Proof.Machine

/-! # NOP and MOV

NOP and how EIP goes on (spec/43_example_general_instructions.md R190; 10_state.md R22), and MOV between registers, immediates and memory
(43 R193 to R196). -/

namespace Sys2Proof.Machine

open Sys2Proof

/-! ## The instruction pointer -/

/-- In 32-bit code EIP goes on modulo 2^32 (10_state.md R22). -/
theorem nextEip_code32 {s : State} (h : s.code32 = true) (n : Nat) : (s.nextEip n).toNat = (s.eip.toNat + n) % 2 ^ 32 := by
  simp [State.nextEip, h, BitVec.toNat_add]

/-- In 16-bit code EIP goes on modulo 2^16 (10_state.md R22). -/
theorem nextEip_code16 {s : State} (h : s.code32 = false) (n : Nat) : (s.nextEip n).toNat = (s.eip.toNat + n) % 2 ^ 16 := by
  simp only [State.nextEip, h, Bool.false_eq_true, if_false, wrap16, BitVec.toNat_setWidth, BitVec.toNat_add, BitVec.toNat_ofNat]
  omega

theorem advance_frame (s : State) (n : Nat) : SameData s (s.advance n) ∧ DataOnly s (s.advance n) n :=
  ⟨⟨rfl, fun _ => rfl⟩, rfl, rfl, rfl⟩

/-- Settles O23: NOP is the advance of EIP alone, and the code size decides how EIP wraps. -/
theorem nopCompletes : Obligations.NopCompletes := by
  refine ⟨fun s h => ⟨_, rfl, advance_frame s _⟩, fun s n => ⟨fun hp hd => ?_, fun h16 => ?_⟩⟩
  · exact nextEip_code32 (Bool.and_eq_true_iff.mpr ⟨hp, hd⟩) n
  · exact nextEip_code16 (Bool.and_eq_false_iff.mpr h16) n

/-! ## Instructions that end with the advance of EIP -/

theorem DataStep.dataOnly_advance {s t : State} (h : DataStep s t) (n : Nat) : DataOnly s (t.advance n) n :=
  ⟨h.sys, h.eflags, h.nextEip n⟩

theorem setReg_advance_frame {w : Nat} (hw : w ≤ 32) (s : State) (r : Reg) (v : BitVec w) (n : Nat) :
    RegWritten w s ((s.setReg w r v).advance n) r v ∧ SameBytes s ((s.setReg w r v).advance n) ∧
      DataOnly s ((s.setReg w r v).advance n) n :=
  ⟨(regWritten_setReg hw s r v).congr rfl, fun _ => rfl, rfl, rfl, rfl⟩

theorem setReg8_advance_frame (s : State) (r : Reg8) (v : Byte) (n : Nat) :
    Reg8Written s ((s.setReg8 r v).advance n) r v ∧ SameBytes s ((s.setReg8 r v).advance n) ∧
      DataOnly s ((s.setReg8 r v).advance n) n :=
  ⟨(reg8Written_setReg8 s r v).congr rfl, fun _ => rfl, rfl, rfl, rfl⟩

/-! ## MOV to a register-or-memory operand -/

/-- An operand of an operand size is written whole. -/
theorem writeRm_size_ready {sz : Size} {s : State} (hm : s.mem.wf = true) {h : Hdr} {rm : RM Reg} (v : BitVec sz.bits)
    (hr : RmReady s h rm sz.bytes) :
    ∃ t, writeRm sz.bits s h rm v = .ok t ∧ RmWritten sz.bits s t h rm v ∧ DataStep s t :=
  writeRm_ready (bits_cases sz) hm v (by rwa [bits_div])

section Store

variable {s : State} (hm : s.mem.wf = true) {h : Hdr}

include hm

theorem writeRm8_concludes {rm : RM Reg8} (hr : RmReady s h rm 1) (v : Byte) (n : Nat) :
    ∃ t, conclude s ((writeRm8 s h rm v).map fun u => u.advance n) = .next t ∧ RmWritten8 s t h rm v ∧ DataOnly s t n := by
  obtain ⟨u, hu, written, data⟩ := writeRm8_ready hm v hr
  exact ⟨u.advance n, by rw [hu, ok_map, conclude_ok], written.congr rfl rfl, data.dataOnly_advance n⟩

theorem writeRm_concludes {sz : Size} {rm : RM Reg} (hr : RmReady s h rm sz.bytes) (v : BitVec sz.bits) (n : Nat) :
    ∃ t, conclude s ((writeRm sz.bits s h rm v).map fun u => u.advance n) = .next t ∧ RmWritten sz.bits s t h rm v ∧
      DataOnly s t n := by
  obtain ⟨u, hu, written, data⟩ := writeRm_size_ready hm v hr
  exact ⟨u.advance n, by rw [hu, ok_map, conclude_ok], written.congr rfl rfl, data.dataOnly_advance n⟩

end Store

/-- Settles O25: each form writes its operand and goes on. -/
theorem movToOperand : Obligations.MovToOperand := fun s _ hm =>
  ⟨fun _ imm hr => writeRm8_concludes hm hr imm _, fun _ r hr => writeRm8_concludes hm hr (s.reg8 r) _,
    fun _ imm hr => writeRm_concludes hm hr (imm.setWidth _) _, fun _ r hr => writeRm_concludes hm hr (s.reg _ r) _⟩

/-! ## MOV from a register-or-memory operand -/

theorem exec_movR8Rm8_ready {s : State} {h : Hdr} {rm : RM Reg8} (hr : RmReady s h rm 1) (r : Reg8) :
    exec (.movR8Rm8 h r rm) s = .next ((s.setReg8 r (rmValue8 s h rm)).advance (Instr.movR8Rm8 h r rm).length) := by
  change execMovR8Rm8 h r rm s = _
  rw [execMovR8Rm8, readRm8_ready hr, ok_map, conclude_ok]

theorem exec_movRRm_ready {s : State} {h : Hdr} {rm : RM Reg} (hr : RmReady s h rm h.os.bytes) (r : Reg) :
    exec (.movRRm h r rm) s = .next ((s.setReg h.os.bits r (rmValue h.os.bits s h rm)).advance (Instr.movRRm h r rm).length) := by
  change execMovRRm h r rm s = _
  rw [execMovRRm, readRm_size_ready hr, ok_map, conclude_ok]

/-- Settles O26: the operand is read, the register written. -/
theorem movFromOperand : Obligations.MovFromOperand := fun s h =>
  ⟨fun r _ hr => ⟨_, exec_movR8Rm8_ready hr r, setReg8_advance_frame s r _ _⟩,
    fun r _ hr => ⟨_, exec_movRRm_ready hr r, setReg_advance_frame (bits_le h.os) s r _ _⟩⟩

/-! ## MOV between the accumulator and memory -/

/-- The address of a `moffs` operand: in DS or the segment of an override (30_encoding.md R101, R106). -/
theorem moffsAddr_of_segment {s : State} {h : Hdr} {r : SReg} (hr : OperandSegment h .ds r) (hu : (s.seg.get r).usable = true)
    (off : DWord) : moffsAddr s h off = .ok ((s.seg.get r).base + off) := by
  rw [moffsAddr, hdrSegment_of_operandSegment hr]
  simp [State.linear, State.segBase, hu]

theorem valueAt_one (s : State) (a : DWord) : s.valueAt a 1 = (s.byteAt a).toNat := by
  simp [State.valueAt, leValue]

section Moffs

variable {s : State} {w n : Nat} {a : Res DWord} (hw : w / 8 = n) (hr : AddrReady s a n)

include hw hr

theorem loadFrom_ready : loadFrom w s a = .ok (BitVec.ofNat w (s.valueAt (addrOf a) n)) := by
  obtain ⟨ha, hp⟩ := hr
  rw [loadFrom, hw, ha, ok_bind, readMem_present hp, ok_map]
  rfl

/-- A store that goes through, and the advance of EIP after it. -/
theorem storeTo_concludes (hm : s.mem.wf = true) (hn : n ≤ 2 ^ 32) (v : BitVec w) (k : Nat) :
    ∃ t, conclude s ((storeTo w s a v).map fun u => u.advance k) = .next t ∧ t.gpr = s.gpr ∧ Stored s t (addrOf a) n v.toNat ∧
      DataOnly s t k := by
  obtain ⟨ha, hp⟩ := hr
  obtain ⟨m, stores⟩ := writeMem_present v.toNat hp
  have stored : Stored s (s.setMem m) (addrOf a) n v.toNat := stored_writeMem hm hn stores
  refine ⟨(s.setMem m).advance k, ?_, rfl, stored, rfl, rfl, rfl⟩
  rw [storeTo, hw, ha, ok_bind, stores, ok_map, conclude_ok]

end Moffs

theorem exec_movAlMoffs_ready {s : State} {h : Hdr} {off : DWord} (hr : AddrReady s (moffsAddr s h off) 1) :
    exec (.movAlMoffs h off) s =
      .next ((s.setReg8 .al (s.byteAt (addrOf (moffsAddr s h off)))).advance (Instr.movAlMoffs h off).length) := by
  change execMovAlMoffs h off s = _
  rw [execMovAlMoffs, loadFrom_ready (w := 8) rfl hr, valueAt_one, BitVec.ofNat_toNat, BitVec.setWidth_eq, ok_map, conclude_ok]

theorem exec_movAxMoffs_ready {s : State} {h : Hdr} {off : DWord} (hr : AddrReady s (moffsAddr s h off) h.os.bytes) :
    exec (.movAxMoffs h off) s =
      .next ((s.setReg h.os.bits .eax (BitVec.ofNat h.os.bits (s.valueAt (addrOf (moffsAddr s h off)) h.os.bytes))).advance
        (Instr.movAxMoffs h off).length) := by
  change execMovAxMoffs h off s = _
  rw [execMovAxMoffs, loadFrom_ready (bits_div h.os) hr, ok_map, conclude_ok]

theorem bytes_le (sz : Size) : sz.bytes ≤ 4 := by cases sz <;> decide

/-- Settles O27: the address by the segment, and each form as a load or a store there. -/
theorem movMoffs : Obligations.MovMoffs := fun s h off =>
  ⟨fun _ hr hu => moffsAddr_of_segment hr hu off,
    fun hr => ⟨_, exec_movAlMoffs_ready hr, setReg8_advance_frame s .al _ _⟩,
    fun hr => ⟨_, exec_movAxMoffs_ready hr, setReg_advance_frame (bits_le h.os) s .eax _ _⟩,
    fun hm hr => storeTo_concludes (w := 8) rfl hr hm (by decide) (s.reg8 .al) _,
    fun hm hr => storeTo_concludes (bits_div h.os) hr hm ((bytes_le h.os).trans (by decide)) (s.reg _ .eax) _⟩

end Sys2Proof.Machine

/-! # Arithmetic

XOR, INC, DEC, SHL and SHR (spec/43_example_general_instructions.md R197 to R203, R209): first the flags that each computes, then an operand
that is read, written and set flags from. -/

namespace Sys2Proof.Machine

open Sys2Proof

/-! ## Values and flags -/

theorem add_one_eq_ofNat {w : Nat} (x : BitVec w) : x + 1 = BitVec.ofNat w (x.toNat + 1) := by
  apply BitVec.eq_of_toNat_eq
  simp [BitVec.toNat_add]

theorem sub_one_eq_ofNat {w : Nat} (hw : 0 < w) (x : BitVec w) : x - 1 = BitVec.ofNat w (x.toNat + (2 ^ w - 1)) := by
  apply BitVec.eq_of_toNat_eq
  rw [BitVec.toNat_sub, BitVec.toNat_ofNat, Nat.add_comm]
  congr 3
  exact Nat.mod_eq_of_lt (Nat.one_lt_two_pow hw.ne')

theorem beq_ofNat_eq_decide {w n : Nat} (hn : n < 2 ^ w) (x : BitVec w) : (x == BitVec.ofNat w n) = decide (x.toNat = n) := by
  rw [Bool.eq_iff_iff, beq_iff_eq, decide_eq_true_iff, ← BitVec.toNat_inj, BitVec.toNat_ofNat, Nat.mod_eq_of_lt hn]

theorem nibble_beq_eq_decide {w n : Nat} (hn : n < 16) (x : BitVec w) :
    (x.extractLsb' 0 4 == BitVec.ofNat 4 n) = decide (x.toNat % 16 = n) := by
  rw [nibble_eq, beq_ofNat_eq_decide hn, BitVec.toNat_ofNat]

theorem incFlags_of {w : Nat} (x : BitVec w) (f : Eflags) :
    (incFlags x f).of = decide (x.toNat = 2 ^ (w - 1) - 1) :=
  beq_ofNat_eq_decide
    ((Nat.sub_lt (Nat.two_pow_pos _) one_pos).trans_le (Nat.pow_le_pow_right (by decide) (Nat.sub_le w 1))) x

theorem decFlags_of {w : Nat} (hw : 0 < w) (x : BitVec w) (f : Eflags) : (decFlags x f).of = decide (x.toNat = 2 ^ (w - 1)) :=
  beq_ofNat_eq_decide (Nat.pow_lt_pow_right (by decide) (by omega)) x

/-- CF is the last bit shifted out (R201). -/
theorem shlFlags_cf {w n : Nat} (h : n ≤ w) (u : DWord) (x : BitVec w) (f : Eflags) : (shlFlags u x n f).cf = x.getLsbD (w - n) :=
  if_pos h

theorem shlFlags_of {w : Nat} (u : DWord) (x : BitVec w) (f : Eflags) :
    (shlFlags u x 1 f).of = ((shlFlags u x 1 f).sf ^^ (shlFlags u x 1 f).cf) := rfl

/-- CF is the last bit shifted out (R202, R203). -/
theorem shrFlags_cf {w n : Nat} (h : n ≤ w) (u : DWord) (x : BitVec w) (f : Eflags) : (shrFlags u x n f).cf = x.getLsbD (n - 1) :=
  if_pos h

theorem shrFlags_of {w : Nat} (u : DWord) (x : BitVec w) (f : Eflags) : (shrFlags u x 1 f).of = x.getLsbD (w - 1) :=
  BitVec.msb_eq_getLsbD_last x

/-! ## INC and DEC -/

theorem setReg_setEflags_frame {w : Nat} (hw : w ≤ 32) (s : State) (r : Reg) (v : BitVec w) {e : Eflags}
    (he : SameControlFlags s.eflags e) (n : Nat) :
    RegWritten w s (((s.setReg w r v).setEflags e).advance n) r v ∧ SameBytes s (((s.setReg w r v).setEflags e).advance n) ∧
      DataAndFlags s (((s.setReg w r v).setEflags e).advance n) n :=
  ⟨(regWritten_setReg hw s r v).congr rfl, fun _ => rfl, rfl, he, rfl⟩

theorem bits_pos (sz : Size) : 0 < sz.bits := by cases sz <;> decide

/-- Settles O29: the result and the flags of each, from those of its increment. -/
theorem incDecResult : Obligations.IncDecResult := by
  intro s h r
  refine ⟨?_, ?_⟩
  · obtain ⟨written, bytes, rest⟩ := setReg_setEflags_frame (bits_le h.os) s r (s.reg h.os.bits r + 1)
      (sameControlFlags_inc (s.reg h.os.bits r) s.eflags) (Instr.incR h r).length
    rw [← add_one_eq_ofNat]
    exact ⟨_, rfl, written, bytes, szp_result _ s.eflags, rfl, incFlags_of _ s.eflags, nibble_beq_eq_decide (by decide) _, rest⟩
  · obtain ⟨written, bytes, rest⟩ := setReg_setEflags_frame (bits_le h.os) s r (s.reg h.os.bits r - 1)
      (sameControlFlags_dec (s.reg h.os.bits r) s.eflags) (Instr.decR h r).length
    rw [← sub_one_eq_ofNat (bits_pos h.os)]
    exact ⟨_, rfl, written, bytes, szp_result _ s.eflags, rfl, decFlags_of (bits_pos h.os) _ s.eflags,
      nibble_beq_eq_decide (by decide) _, rest⟩

/-! ## An operand read, written and set flags from -/

/-- What XOR, SHL and SHR share: the operand becomes `f` of itself, and the flags `g` of what it was. -/
theorem readWriteFlags_ready {sz : Size} {s : State} {h : Hdr} {rm : RM Reg} (hm : s.mem.wf = true) (hr : RmReady s h rm sz.bytes)
    (f : BitVec sz.bits → BitVec sz.bits) {g : BitVec sz.bits → DWord → Eflags → Eflags}
    (hg : ∀ a x e, SameControlFlags e (g a x e)) (n : Nat) :
    ∃ t, conclude s (((readRm sz.bits s h rm).bind fun a => (writeRm sz.bits s h rm (f a)).map fun u => u.newFlags (g a)).map
        fun u => u.advance n) = .next t ∧
      RmWritten sz.bits s t h rm (f (rmValue sz.bits s h rm)) ∧ t.eflags = g (rmValue sz.bits s h rm) s.freeNow s.eflags ∧
      DataAndFlags s t n := by
  obtain ⟨u, hu, written, data⟩ := writeRm_size_ready hm (f (rmValue sz.bits s h rm)) hr
  have flags : (u.newFlags (g (rmValue sz.bits s h rm))).eflags = g (rmValue sz.bits s h rm) s.freeNow s.eflags := by
    rw [newFlags_eflags, data.freeNow, data.eflags]
  refine ⟨(u.newFlags (g (rmValue sz.bits s h rm))).advance n, ?_, written.congr rfl rfl, flags, data.sys, ?_, data.nextEip n⟩
  · rw [readRm_size_ready hr, ok_bind, hu, ok_map, ok_map, conclude_ok]
  · rw [advance_eflags, flags]
    exact hg _ _ _

/-! ## XOR -/

theorem exec_xorRRm_ready {s : State} {h : Hdr} {rm : RM Reg} (hr : RmReady s h rm h.os.bytes) (r : Reg) :
    exec (.xorRRm h r rm) s =
      .next (((s.setReg h.os.bits r (s.reg h.os.bits r ^^^ rmValue h.os.bits s h rm)).newFlags
        fun u => xorFlags u (s.reg h.os.bits r ^^^ rmValue h.os.bits s h rm)).advance (Instr.xorRRm h r rm).length) := by
  change execXorRRm h r rm s = _
  rw [execXorRRm, readRm_size_ready hr, ok_bind]
  rfl

/-- Settles O28: the flags are those of the result, for each of the three forms. -/
theorem xorResult : Obligations.XorResult := by
  refine fun s h => ⟨fun imm => ?_, fun rm r hm hr => ?_, fun r rm hr => ?_⟩
  · exact ⟨_, rfl, (reg8Written_setReg8 s .al _).congr rfl, fun _ => rfl, szp_result _ s.eflags, rfl, rfl, rfl,
      sameControlFlags_xor _ _ _, rfl⟩
  · obtain ⟨t, ends, written, flags, rest⟩ := readWriteFlags_ready hm hr (fun a => a ^^^ s.reg h.os.bits r)
      (fun a => sameControlFlags_xor (a ^^^ s.reg h.os.bits r)) (Instr.xorRmR h rm r).length
    refine ⟨t, ends, written, ?_, ?_, ?_, rest⟩
    all_goals rw [flags]
    · exact szp_result _ s.eflags
    · rfl
    · rfl
  · exact ⟨_, exec_xorRRm_ready hr r, (regWritten_setReg (bits_le h.os) s r _).congr rfl, fun _ => rfl, szp_result _ s.eflags, rfl,
      rfl, rfl, sameControlFlags_xor _ _ _, rfl⟩

/-! ## SHL and SHR -/

theorem shlFlags_result {w : Nat} (u : DWord) (x : BitVec w) (n : Nat) (f : Eflags) :
    ResultFlags (BitVec.ofNat w (x.toNat * 2 ^ n)) (shlFlags u x n f) := by
  rw [← shiftLeft_eq_ofNat]
  exact szp_result _ f

theorem shrFlags_result {w : Nat} (u : DWord) (x : BitVec w) (n : Nat) (f : Eflags) :
    ResultFlags (BitVec.ofNat w (x.toNat / 2 ^ n)) (shrFlags u x n f) := by
  rw [← shiftRight_eq_ofNat]
  exact szp_result _ f

section Shift

variable {sz : Size} {s : State} {h : Hdr} {rm : RM Reg} (hm : s.mem.wf = true) (hr : RmReady s h rm sz.bytes) {n : Nat} (hn : n ≠ 0)
  (k : Nat)

include hm hr hn

/-- SHL by a count other than 0 (R201). -/
theorem shlBy_concludes :
    ∃ t, conclude s ((shlBy sz.bits s h rm n).map fun u => u.advance k) = .next t ∧
      RmWritten sz.bits s t h rm (BitVec.ofNat sz.bits ((rmValue sz.bits s h rm).toNat * 2 ^ n)) ∧
      ResultFlags (BitVec.ofNat sz.bits ((rmValue sz.bits s h rm).toNat * 2 ^ n)) t.eflags ∧
      (n ≤ sz.bits → t.eflags.cf = (rmValue sz.bits s h rm).getLsbD (sz.bits - n)) ∧
      (n = 1 → t.eflags.of = (t.eflags.sf ^^ t.eflags.cf)) ∧ DataAndFlags s t k := by
  rw [shlBy, if_neg hn]
  obtain ⟨t, ends, written, flags, rest⟩ := readWriteFlags_ready hm hr (fun a => a <<< n) (fun a => sameControlFlags_shl a n) k
  rw [shiftLeft_eq_ofNat] at written
  refine ⟨t, ends, written, ?_, fun hw => ?_, fun h1 => ?_, rest⟩
  all_goals rw [flags]
  · exact shlFlags_result _ _ n _
  · exact shlFlags_cf hw _ _ _
  · rw [h1, shlFlags_of]

/-- SHR by a count other than 0 (R202, R203). -/
theorem shrBy_concludes :
    ∃ t, conclude s ((shrBy sz.bits s h rm n).map fun u => u.advance k) = .next t ∧
      RmWritten sz.bits s t h rm (BitVec.ofNat sz.bits ((rmValue sz.bits s h rm).toNat / 2 ^ n)) ∧
      ResultFlags (BitVec.ofNat sz.bits ((rmValue sz.bits s h rm).toNat / 2 ^ n)) t.eflags ∧
      (n ≤ sz.bits → t.eflags.cf = (rmValue sz.bits s h rm).getLsbD (n - 1)) ∧
      (n = 1 → t.eflags.of = (rmValue sz.bits s h rm).getLsbD (sz.bits - 1)) ∧ DataAndFlags s t k := by
  rw [shrBy, if_neg hn]
  obtain ⟨t, ends, written, flags, rest⟩ := readWriteFlags_ready hm hr (fun a => a >>> n) (fun a => sameControlFlags_shr a n) k
  rw [shiftRight_eq_ofNat] at written
  refine ⟨t, ends, written, ?_, fun hw => ?_, fun h1 => ?_, rest⟩
  all_goals rw [flags]
  · exact shrFlags_result _ _ n _
  · exact shrFlags_cf hw _ _ _
  · rw [h1, shrFlags_of]

end Shift

/-- An immediate that is 0 modulo 32 shifts by nothing (R201, R203). -/
theorem exec_shlRmImm8_zero {imm : Byte} (h0 : shiftCount imm = 0) (s : State) (h : Hdr) (rm : RM Reg) :
    exec (.shlRmImm8 h rm imm) s = .next (s.advance (Instr.shlRmImm8 h rm imm).length) := by
  change execShlRmImm8 h rm imm s = _
  rw [execShlRmImm8, shlBy, if_pos h0, ok_map, conclude_ok]

theorem exec_shrRmImm8_zero {imm : Byte} (h0 : shiftCount imm = 0) (s : State) (h : Hdr) (rm : RM Reg) :
    exec (.shrRmImm8 h rm imm) s = .next (s.advance (Instr.shrRmImm8 h rm imm).length) := by
  change execShrRmImm8 h rm imm s = _
  rw [execShrRmImm8, shrBy, if_pos h0, ok_map, conclude_ok]

/-- Settles O30: by whether the count is 0. -/
theorem shlResult : Obligations.ShlResult := fun s h rm _ =>
  ⟨fun h0 => ⟨_, exec_shlRmImm8_zero h0 s h rm, advance_frame s _⟩, fun hn hm hr => shlBy_concludes hm hr hn _⟩

/-- Settles O31: by whether the count is 0; SHR by one is the shift by the count 1. -/
theorem shrResult : Obligations.ShrResult := by
  refine fun s h rm imm => ⟨fun h0 => ⟨_, exec_shrRmImm8_zero h0 s h rm, advance_frame s _⟩,
    fun hn hm hr => shrBy_concludes hm hr hn _, fun hm hr => ?_⟩
  obtain ⟨t, ends, written, result, cf, of, rest⟩ := shrBy_concludes hm hr one_ne_zero (Instr.shrRm1 h rm).length
  rw [pow_one] at written result
  exact ⟨t, ends, written, result, cf (bits_pos h.os), of rfl, rest⟩

end Sys2Proof.Machine

/-! # Ports and single flags

OUT, CLI and CLD (spec/43_example_general_instructions.md R204 to R206), and the instructions that a mode or a level forbids (42 R172 to
R174). -/

namespace Sys2Proof.Machine

open Sys2Proof

theorem aboveIopl_iff {s : State} : s.aboveIopl = true ↔ s.pe = true ∧ s.eflags.iopl < s.cpl := by
  rw [State.aboveIopl, Bool.and_eq_true, decide_eq_true_iff]

theorem not_aboveIopl_of_allowed {s : State} (h : s.pe = false ∨ s.cpl ≤ s.eflags.iopl) : ¬ s.aboveIopl = true := by
  rw [aboveIopl_iff]
  rintro ⟨hp, hlt⟩
  obtain h | h := h
  · exact Bool.false_ne_true (h.symm.trans hp)
  · exact BitVec.not_lt.mpr h hlt

/-- OUT by the privilege check (R204). -/
theorem exec_outImm8Al (h : Hdr) (port : Byte) (s : State) : exec (.outImm8Al h port) s =
    if s.aboveIopl then .refused .ioPermission
    else .next ((s.portWrite (port.setWidth 16) (s.reg8 .al)).advance (Instr.outImm8Al h port).length) := by
  change execOutImm8Al h port s = _
  rw [execOutImm8Al, apply_ite (conclude s)]
  rfl

/-- CLI by the privilege check (R205). -/
theorem exec_cli (h : Hdr) (s : State) : exec (.cli h) s =
    if s.aboveIopl then takeEvent (.exception (.generalProtection 0)) s
    else .next ((s.setEflags { s.eflags with ifl := false }).advance (Instr.cli h).length) := by
  change execCli h s = _
  rw [execCli, apply_ite (conclude s)]
  rfl

/-- Settles O32: where the check passes, each form has its one effect. -/
theorem outCliCld : Obligations.OutCliCld := fun s h =>
  ⟨fun allowed =>
    ⟨fun port =>
        ⟨_, (exec_outImm8Al h port s).trans (if_neg (not_aboveIopl_of_allowed allowed)), ⟨rfl, fun _ => rfl⟩, rfl, rfl, rfl⟩,
      ⟨_, (exec_cli h s).trans (if_neg (not_aboveIopl_of_allowed allowed)), ⟨rfl, fun _ => rfl⟩, rfl, rfl, rfl⟩⟩,
    ⟨_, rfl, ⟨rfl, fun _ => rfl⟩, rfl, rfl, rfl⟩⟩

theorem requireProtected_real {s : State} (hp : s.pe = false) : s.requireProtected = raise .invalidOpcode :=
  if_neg (by simp [hp])

/-- Settles O16: by the check that each instruction makes first. -/
theorem ioplAndModeTraps : Obligations.IoplAndModeTraps := by
  refine ⟨fun s h hp hlt => ⟨?_, fun port => ?_⟩, fun s h rm => rfl, fun s h r rm hp => ⟨?_, ?_⟩⟩
  · rw [exec_cli, if_pos (aboveIopl_iff.mpr ⟨hp, hlt⟩)]
  · rw [exec_outImm8Al, if_pos (aboveIopl_iff.mpr ⟨hp, hlt⟩)]
  · change execLtr h rm s = _
    rw [execLtr, requireProtected_real hp]
    rfl
  · change execLar h r rm s = _
    rw [execLar, requireProtected_real hp]
    rfl

end Sys2Proof.Machine

/-! # String moves

MOVS, and REP MOVS by induction on its iterations (spec/43_example_general_instructions.md R207, R208). -/

namespace Sys2Proof.Machine

open Sys2Proof

/-! ## MOVS -/

theorem add_stringDelta {w : Nat} (s : State) (n : Nat) (x : BitVec w) :
    x + stringDelta w s n = if s.eflags.df then x - BitVec.ofNat w n else x + BitVec.ofNat w n := by
  unfold stringDelta
  split
  · exact (BitVec.sub_eq_add_neg x _).symm
  · rfl

/-- What MOVS leaves, for an element of either size. -/
theorem movsOne_concludes {s : State} {h : Hdr} {n : Nat} (hn : n ≤ 4) (hm : s.mem.wf = true)
    (hsrc : AddrReady s (s.linear (hdrSegment h .ds) (stringOffset h.as.bits s .esi)) n)
    (hdst : AddrReady s (s.linear .es (stringOffset h.as.bits s .edi)) n) (k : Nat) :
    ∃ t, conclude s ((movsOne h n s).map fun u => u.advance k) = .next t ∧
      Stored s t (addrOf (s.linear .es (stringOffset h.as.bits s .edi))) n
        (s.valueAt (addrOf (s.linear (hdrSegment h .ds) (stringOffset h.as.bits s .esi))) n) ∧
      Moved h.as.bits n s t ∧ DataOnly s t k := by
  obtain ⟨m, t, moves, rfl, moved, -, stored⟩ := movsOne_ready hn hm hsrc hdst
  refine ⟨(stringAdvance h.as.bits n (s.setMem m)).advance k, ?_, stored, moved, rfl, rfl, rfl⟩
  rw [moves, ok_map, conclude_ok]

/-- Settles O33: one move, of one byte or of the operand size. -/
theorem movsResult : Obligations.MovsResult := by
  intro s h n i hi hm hsrc hdst
  have result : ∃ t, exec i s = .next t ∧ Stored s t (addrOf (s.linear .es (stringOffset h.as.bits s .edi))) n
        (s.valueAt (addrOf (s.linear (hdrSegment h .ds) (stringOffset h.as.bits s .esi))) n) ∧
      Moved h.as.bits n s t ∧ DataOnly s t i.length := by
    obtain ⟨rfl, rfl⟩ | ⟨rfl, rfl⟩ := hi
    · exact movsOne_concludes (by decide) hm hsrc hdst _
    · exact movsOne_concludes (bytes_le h.os) hm hsrc hdst _
  obtain ⟨t, ends, stored, ⟨strings, others⟩, rest⟩ := result
  exact ⟨t, ends, stored, fun q hq => ⟨(strings q hq).1.trans (add_stringDelta s n _), (strings q hq).2⟩, others, rest⟩

/-! ## What the iterations of REP MOVS have done -/

/-- Where element `k` of the source stands (R207). -/
def repSrc (h : Hdr) (n : Nat) (s : State) : Nat → DWord := stringAddr h.as.bits s (hdrSegment h .ds) .esi n

/-- Where element `k` of the destination stands (R207). -/
def repDst (h : Hdr) (n : Nat) (s : State) : Nat → DWord := stringAddr h.as.bits s .es .edi n

/-- From `s` to `t` a REP MOVS on elements of `n` bytes has made `k` moves. Nothing is said of EIP and of the repetition still to come. -/
structure Iterated (h : Hdr) (n : Nat) (s : State) (k : Nat) (t : State) : Prop where
  memWf : t.mem.wf = true
  count : (t.reg h.as.bits .ecx).toNat = (s.reg h.as.bits .ecx).toNat - k
  strings : ∀ q, q = .esi ∨ q = .edi →
    t.reg h.as.bits q = s.reg h.as.bits q + BitVec.ofNat h.as.bits k * stringDelta h.as.bits s n
  upper : ∀ q, q = .ecx ∨ q = .esi ∨ q = .edi → ∀ j, h.as.bits ≤ j → (t.gpr.get q).getLsbD j = (s.gpr.get q).getLsbD j
  others : ∀ q, q ≠ .ecx → q ≠ .esi → q ≠ .edi → t.gpr.get q = s.gpr.get q
  bytes : ∀ x, t.byteAt x = copied s.memMap (repSrc h n s) (repDst h n s) n s.byteAt k x
  eflags : t.eflags = s.eflags
  sys : t.sys = { s.sys with repeating := t.repeating }

/-- The elements of number `k` can be accessed. -/
structure ElementReady (h : Hdr) (n : Nat) (s : State) (k : Nat) : Prop where
  srcUsable : (s.seg.get (hdrSegment h .ds)).usable = true
  dstUsable : s.seg.es.usable = true
  srcPresent : Present s (repSrc h n s k) n
  dstPresent : Present s (repDst h n s k) n

namespace Iterated

variable {h : Hdr} {n k : Nat} {s t : State}

theorem zero (hm : s.mem.wf = true) : Iterated h n s 0 s where
  memWf := hm
  count := rfl
  strings q _ := by simp
  upper _ _ _ _ := rfl
  others _ _ _ _ := rfl
  bytes _ := rfl
  eflags := rfl
  sys := rfl

theorem setRepeat (i : Iterated h n s k t) (r : Option Repeat) : Iterated h n s k (t.setRepeat r) :=
  { i with sys := congrArg (fun y : SystemView => { y with repeating := r }) i.sys }

theorem advance (i : Iterated h n s k t) (len : Nat) : Iterated h n s k (t.advance len) := { i with }

theorem repAfter (i : Iterated h n s k t) (wide : Bool) : Iterated h n s k (repAfter h wide t) := by
  unfold Machine.repAfter
  split
  · exact (i.setRepeat none).advance _
  · exact i.setRepeat _

theorem seg (i : Iterated h n s k t) : t.seg = s.seg := congrArg SystemView.seg i.sys
theorem memMap (i : Iterated h n s k t) : t.memMap = s.memMap := congrArg SystemView.memMap i.sys

theorem present (i : Iterated h n s k t) {a : DWord} (hp : Present s a n) : Present t a n :=
  Present.of_sys (s := s.setRepeat t.repeating) i.sys hp

theorem nextEip (i : Iterated h n s k t) (he : t.eip = s.eip) (len : Nat) : t.nextEip len = s.nextEip len := by
  have hcr0 : t.cr0 = s.cr0 := congrArg SystemView.cr0 i.sys
  unfold State.nextEip State.code32 State.pe
  rw [hcr0, i.seg, he]

theorem stringDelta_eq (i : Iterated h n s k t) : stringDelta h.as.bits t n = stringDelta h.as.bits s n := by
  unfold stringDelta
  rw [i.eflags]

theorem count_eq_zero_iff (i : Iterated h n s k t) : t.reg h.as.bits .ecx = 0 ↔ (s.reg h.as.bits .ecx).toNat ≤ k := by
  rw [← BitVec.toNat_inj, i.count, BitVec.ofNat_eq_ofNat, BitVec.toNat_zero, Nat.sub_eq_zero_iff_le]

/-- The next move is that of element `k`. -/
theorem linear_ready (i : Iterated h n s k t) {r : SReg} {q : Reg} (hq : q = .esi ∨ q = .edi) (hu : (s.seg.get r).usable = true)
    (hp : Present s (stringAddr h.as.bits s r q n k) n) :
    AddrReady t (t.linear r (stringOffset h.as.bits t q)) n ∧
      addrOf (t.linear r (stringOffset h.as.bits t q)) = stringAddr h.as.bits s r q n k := by
  have place : (t.seg.get r).base + stringOffset h.as.bits t q = stringAddr h.as.bits s r q n k := by
    rw [stringOffset, i.strings q hq, i.seg]
    rfl
  rw [← place] at hp ⊢
  exact Machine.linear_ready (by rw [i.seg]; exact hu) (i.present hp)

end Iterated

/-! ## One more iteration -/

/-- A byte after the copy of an element from `a` to `b`: ROM keeps its content (20_memory.md R76). -/
theorem byteAt_copy {s t : State} {a b : DWord} {n : Nat} (hp : Present s b n) (stored : Stored s t b n (s.valueAt a n)) (x : DWord) :
    t.byteAt x = if within x b n ∧ kindAt s.memMap x.toNat = .ram then s.byteAt (a + (x - b)) else s.byteAt x := by
  obtain ⟨inRam, inRom, outside⟩ := stored x
  by_cases hx : within x b n
  · cases hk : kindAt s.memMap x.toNat with
    | ram => rw [if_pos ⟨hx, rfl⟩, inRam hx hk, storedByte_valueAt hx]
    | rom => rw [if_neg (by simp), inRom hx hk]
    | absent =>
      have present := hp.2 _ hx
      rw [BitVec.ofNat_toNat, BitVec.setWidth_eq, BitVec.add_comm, BitVec.sub_add_cancel] at present
      exact absurd hk present
  · rw [if_neg fun c => hx c.1, outside hx]

theorem toNat_sub_one {w : Nat} {x : BitVec w} (hx : 0 < x.toNat) : (x - 1).toNat = x.toNat - 1 := by
  have one : (1 : BitVec w).toNat = 1 := (BitVec.toNat_ofNat 1 w).trans (Nat.mod_eq_of_lt (lt_of_le_of_lt hx x.isLt))
  rw [BitVec.toNat_sub_of_le (BitVec.le_def.mpr (one.trans_le hx)), one]

theorem add_ofNat_succ_mul {w : Nat} (x d : BitVec w) (k : Nat) :
    x + BitVec.ofNat w (k + 1) * d = x + BitVec.ofNat w k * d + d := by
  rw [BitVec.ofNat_add, BitVec.add_mul, BitVec.one_mul, BitVec.add_assoc]

/-- One move of elements that can be accessed, and the count one lower, is one iteration more. -/
theorem Iterated.succ {h : Hdr} {n k : Nat} {s t : State} (i : Iterated h n s k t) (hn : n ≤ 4)
    (hk : k < (s.reg h.as.bits .ecx).toNat) (ready : ElementReady h n s k) :
    ∃ u, movsOne h n t = .ok u ∧ Iterated h n s (k + 1) (countDown h.as.bits u) ∧ (countDown h.as.bits u).eip = t.eip := by
  obtain ⟨srcReady, srcPlace⟩ := i.linear_ready (.inl rfl) ready.srcUsable ready.srcPresent
  obtain ⟨dstReady, dstPlace⟩ := i.linear_ready (r := .es) (.inr rfl) ready.dstUsable ready.dstPresent
  obtain ⟨m, u, moves, hu, ⟨strings, others⟩, hm, stored⟩ := movsOne_ready hn i.memWf srcReady dstReady
  rw [srcPlace, dstPlace] at stored
  obtain ⟨down, downUpper, downOthers⟩ := regWritten_setReg (bits_le h.as) u .ecx (u.reg h.as.bits .ecx - 1)
  have counted : u.reg h.as.bits .ecx = t.reg h.as.bits .ecx := congrArg _ (others .ecx (by decide) (by decide))
  refine ⟨u, moves, ?_, by rw [hu]; rfl⟩
  constructor
  case memWf => rw [hu]; exact hm
  case count =>
    have left := i.count
    rw [countDown, down, counted, toNat_sub_one (by omega)]
    omega
  case strings =>
    intro q hq
    have hne : q ≠ .ecx := by obtain rfl | rfl := hq <;> decide
    rw [countDown, reg_setReg_other _ _ hne, (strings q hq).1, i.strings q hq, i.stringDelta_eq, add_ofNat_succ_mul]
  case upper =>
    intro q hq j hj
    obtain rfl | hq' := hq
    · rw [countDown, downUpper j hj, others .ecx (by decide) (by decide), i.upper _ (.inl rfl) j hj]
    · have hne : q ≠ .ecx := by obtain rfl | rfl := hq' <;> decide
      rw [countDown, downOthers q hne, (strings q hq').2 j hj, i.upper q (.inr hq') j hj]
  case others =>
    intro q hc hsi hdi
    rw [countDown, downOthers q hc, others q hsi hdi, i.others q hc hsi hdi]
  case bytes =>
    intro x
    rw [countDown, setReg_byteAt, byteAt_copy (i.present ready.dstPresent) stored, copied, i.memMap, i.bytes, i.bytes]
    rfl
  case eflags => rw [hu]; exact i.eflags
  case sys => rw [hu]; exact i.sys

/-! ## All iterations -/

section Rep

variable {s : State} {h : Hdr} {wide : Bool} {k : Nat}

theorem elementBytes_le (h : Hdr) (wide : Bool) : elementBytes h wide ≤ 4 := by
  cases wide with
  | false => exact (by decide : 1 ≤ 4)
  | true => exact bytes_le h.os

/-- With a count of 0 REP MOVS moves nothing (R208). -/
theorem exec_repMovs_zero (hc : s.reg h.as.bits .ecx = 0) :
    exec (.repMovs h wide) s = .next ((s.setRepeat none).advance (Instr.repMovs h wide).length) := by
  change execRepMovs h wide s = _
  rw [execRepMovs, if_pos hc, ok_map, conclude_ok, repAfter, if_pos hc]

/-- With a count other than 0 REP MOVS makes one iteration (R208; log 13). -/
theorem exec_repMovs_iterates {t : State} (i : Iterated h (elementBytes h wide) s k t) (hk : k < (s.reg h.as.bits .ecx).toNat)
    (ready : ElementReady h (elementBytes h wide) s k) :
    ∃ u, exec (.repMovs h wide) t = .next (repAfter h wide u) ∧ Iterated h (elementBytes h wide) s (k + 1) u ∧ u.eip = t.eip := by
  obtain ⟨u, moves, further, heip⟩ := i.succ (elementBytes_le h wide) hk ready
  refine ⟨_, ?_, further, heip⟩
  change execRepMovs h wide t = _
  rw [execRepMovs, if_neg (i.count_eq_zero_iff.not.mpr hk.not_ge), moves, ok_map, ok_map, conclude_ok]

theorem repAfter_last {u : State} (i : Iterated h (elementBytes h wide) s k u) (hk : (s.reg h.as.bits .ecx).toNat ≤ k) :
    repAfter h wide u = (u.setRepeat none).advance (Instr.repMovs h wide).length :=
  if_pos (i.count_eq_zero_iff.mpr hk)

theorem repAfter_more {u : State} (i : Iterated h (elementBytes h wide) s k u) (hk : k < (s.reg h.as.bits .ecx).toNat) :
    repAfter h wide u = u.setRepeat (some ⟨h, wide⟩) :=
  if_neg (i.count_eq_zero_iff.not.mpr hk.not_ge)

/-- Each execution makes one iteration more, from the state that the ones before it have left. -/
theorem execTimes_repMovs (hm : s.mem.wf = true)
    (ready : ∀ k, k < (s.reg h.as.bits .ecx).toNat → ElementReady h (elementBytes h wide) s k) :
    ∀ k, k < (s.reg h.as.bits .ecx).toNat → ∃ u, execTimes (.repMovs h wide) (k + 1) s = .next (repAfter h wide u) ∧
      Iterated h (elementBytes h wide) s (k + 1) u ∧ u.eip = s.eip
  | 0, hk => by
    rw [execTimes_add _ 0 s s rfl]
    exact exec_repMovs_iterates (.zero hm) hk (ready 0 hk)
  | k + 1, hk => by
    obtain ⟨u, runs, i, heip⟩ := execTimes_repMovs hm ready k (by omega)
    rw [execTimes_add _ (k + 1) s _ runs, repAfter_more i hk]
    obtain ⟨v, runs', i', heip'⟩ := exec_repMovs_iterates (i.setRepeat _) hk (ready (k + 1) hk)
    exact ⟨v, runs', i', heip'.trans heip⟩

/-- Where an iteration leaves EIP and the repetition: at the instruction, or past it after the last (R208). -/
theorem repAfter_control {u : State} (i : Iterated h (elementBytes h wide) s k u) (heip : u.eip = s.eip)
    (hk : k ≤ (s.reg h.as.bits .ecx).toNat) :
    (repAfter h wide u).eip =
        (if k = (s.reg h.as.bits .ecx).toNat then s.nextEip (Instr.repMovs h wide).length else s.eip) ∧
      (repAfter h wide u).repeating = if k = (s.reg h.as.bits .ecx).toNat then none else some ⟨h, wide⟩ := by
  split
  · next last =>
    rw [repAfter_last i last.ge]
    exact ⟨i.nextEip heip _, rfl⟩
  · next more =>
    rw [repAfter_more i (by omega)]
    exact ⟨heip, rfl⟩

end Rep

/-- Settles O34: by the induction over the iterations, and what their copies leave in memory. -/
theorem repMovsResult : Obligations.RepMovsResult := by
  rintro s h wide n c src dst rfl rfl rfl rfl hm usable present
  have ready : ∀ k, k < (s.reg h.as.bits .ecx).toNat → ElementReady h (elementBytes h wide) s k := fun k hk =>
    ⟨(usable (by omega)).1, (usable (by omega)).2, (present k hk).1, (present k hk).2⟩
  refine ⟨fun h0 => ?_, fun hc => ?_, fun k hpos hk => ?_⟩
  · exact ⟨_, exec_repMovs_zero (BitVec.eq_of_toNat_eq h0), ⟨rfl, fun _ => rfl⟩, rfl, rfl, rfl⟩
  · obtain ⟨u, runs, -⟩ := execTimes_repMovs hm ready 0 (by omega)
    exact ⟨_, (execTimes_add _ 0 s s rfl).symm.trans runs, runs⟩
  · obtain ⟨j, rfl⟩ : ∃ j, k = j + 1 := ⟨k - 1, by omega⟩
    obtain ⟨u, runs, i, heip⟩ := execTimes_repMovs hm ready j hk
    obtain ⟨eip, repeating⟩ := repAfter_control i heip hk
    have after := i.repAfter wide
    refine ⟨_, runs, after.count, after.strings, after.upper, after.others, after.bytes, fun x hx => ?_, fun apart j' x hj hx => ?_,
      after.eflags, eip, ?_⟩
    · exact (after.bytes x).trans (copied_outside _ _ _ _ _ _ x hx)
    · exact (after.bytes x).trans (copied_apart _ _ _ _ _ _ apart j' x hj hx)
    · rw [after.sys, repeating]

end Sys2Proof.Machine

/-! # Test registers

MOV to and from TR6 and TR7 (spec/44_test_register_moves.md R230 to R238), and the two commands of the TLB that a MOV to TR6 fires (R234 to
R236, R240 to R247). -/

namespace Sys2Proof.Machine

open Sys2Proof

/-! ## The moves where they are allowed -/

/-- TR6 holding a command word (R233). -/
def State.withTr6 (s : State) (x : DWord) : State := { s with tr6 := TR6.ofWord s.trLayout x }

/-- The command that a MOV to TR6 of `x` fires: C = 0 a write, C = 1 a lookup (R233). -/
def tlbCommand (s : State) (x : DWord) : Res State :=
  if x.getLsbD s.trLayout.c then tlbLookup (TR6.ofWord s.trLayout x) (s.withTr6 x)
  else tlbWrite (TR6.ofWord s.trLayout x) (s.withTr6 x)

theorem tlbCommand_write {s : State} {x : DWord} (hc : x.getLsbD s.trLayout.c = false) :
    tlbCommand s x = tlbWrite (TR6.ofWord s.trLayout x) (s.withTr6 x) :=
  if_neg (Bool.eq_false_iff.mp hc)

theorem tlbCommand_lookup {s : State} {x : DWord} (hc : x.getLsbD s.trLayout.c = true) :
    tlbCommand s x = tlbLookup (TR6.ofWord s.trLayout x) (s.withTr6 x) :=
  if_pos hc

section Allowed

variable {s : State} (hp : Privileged s) (h : Hdr) (r : Reg)

include hp

theorem exec_movRTr6_privileged : exec (.movRTr6 h r) s =
    .next ((s.drawn.setReg 32 r (TR6.toWord s.trLayout s.tr6 s.freeNow)).endSpecial (Instr.movRTr6 h r).length) := by
  change execMovRTr6 h r s = _
  rw [execMovRTr6, readSpecial_ready (s := s.drawn) hp, conclude_ok]

theorem exec_movRTr7_privileged : exec (.movRTr7 h r) s =
    .next ((s.drawn.setReg 32 r (TR7.toWord s.trLayout s.tr7 s.freeNow)).endSpecial (Instr.movRTr7 h r).length) := by
  change execMovRTr7 h r s = _
  rw [execMovRTr7, readSpecial_ready (s := s.drawn) hp, conclude_ok]

theorem exec_movTr7R_privileged : exec (.movTr7R h r) s =
    .next (({ s with tr7 := TR7.ofWord s.trLayout (s.reg 32 r) } : State).endSpecial (Instr.movTr7R h r).length) := by
  change execMovTr7R h r s = _
  rw [execMovTr7R, requireCpl0_of_privileged hp, ok_map, conclude_ok]

theorem exec_movTr6R_paging (hpg : s.pg = true) : exec (.movTr6R h r) s = .refused .tlbTestWithPaging := by
  change execMovTr6R h r s = _
  rw [execMovTr6R, requireCpl0_of_privileged hp, ok_bind, if_pos hpg]
  rfl

theorem exec_movTr6R_command (hpg : s.pg = false) : exec (.movTr6R h r) s =
    conclude s ((tlbCommand s (s.reg 32 r)).map fun t => t.endSpecial (Instr.movTr6R h r).length) := by
  change execMovTr6R h r s = _
  rw [execMovTr6R, requireCpl0_of_privileged hp, ok_bind, if_neg (by simp [hpg])]
  rfl

end Allowed

/-! ## What a command may write -/

/-- From `s` to `u` only TR6, TR7, the TLB, the mark of duplicate tags and the counter of free values have changed. -/
structure TestOnly (s u : State) : Prop where
  gpr : u.gpr = s.gpr
  mem : u.mem = s.mem
  eflags : u.eflags = s.eflags
  eip : u.eip = s.eip
  sys : u.sys = { s.sys with tr6 := u.tr6, tr7 := u.tr7, tlb := u.tlb, tlbMark := u.tlbMark }

theorem TestOnly.nextEip {s u : State} (h : TestOnly s u) (n : Nat) : u.nextEip n = s.nextEip n := by
  have cr0 : u.cr0 = s.cr0 := congrArg SystemView.cr0 h.sys
  have seg : u.seg = s.seg := congrArg SystemView.seg h.sys
  rw [State.nextEip, State.nextEip, State.code32, State.code32, State.pe, State.pe, cr0, seg, h.eip]

/-- The frame of a test register move: the six flags may be anything, EIP is past the instruction (R238). -/
theorem TestOnly.endSpecial_frame {s u : State} (h : TestOnly s u) (n : Nat) :
    SameData s (u.endSpecial n) ∧ SameControlFlags s.eflags (u.endSpecial n).eflags ∧ (u.endSpecial n).eip = s.nextEip n := by
  refine ⟨⟨h.gpr, fun a => congrArg (fun m : Memory => m.get a.toNat) h.mem⟩, ?_, h.nextEip n⟩
  rw [endSpecial_eflags, h.eflags]
  exact sameControlFlags_undefined _ _

theorem testOnly_tlbHit (s : State) (x : DWord) (b : BitVec 2) (e : TlbEntry) : TestOnly s (tlbHit (s.withTr6 x) b e) :=
  ⟨rfl, rfl, rfl, rfl, rfl⟩

theorem testOnly_tlbMiss (s : State) (x : DWord) : TestOnly s (tlbMiss (s.withTr6 x)) := ⟨rfl, rfl, rfl, rfl, rfl⟩

/-! ## MOV to TR7 and reads -/

/-- Settles O44: TR7 is written through the layout, and nothing else is but what every special move ends with. -/
theorem writeTr7 : Obligations.WriteTr7 := fun _ h r hp =>
  ⟨_, exec_movTr7R_privileged hp h r, ⟨rfl, fun _ => rfl⟩, sameControlFlags_undefined _ _, rfl, rfl⟩

/-- Drawing a free value for the reserved bits changes nothing that a read of a special register keeps. -/
theorem readSpecial_drawn_frame (s : State) (r : Reg) (v : DWord) (n : Nat) :
    RegWritten 32 s ((s.drawn.setReg 32 r v).endSpecial n) r v ∧ SameBytes s ((s.drawn.setReg 32 r v).endSpecial n) ∧
      DataAndFlags s ((s.drawn.setReg 32 r v).endSpecial n) n :=
  readSpecial_frame s.drawn r v n

/-- Settles O43: both moves are reads of a special register, and the layout gives the fields back. -/
theorem readTestRegister : Obligations.ReadTestRegister := by
  intro s h r hp
  refine ⟨⟨_, exec_movRTr6_privileged hp h r, ?_⟩, ⟨_, exec_movRTr7_privileged hp h r, ?_⟩⟩
  · obtain ⟨written, bytes, rest⟩ :=
      readSpecial_drawn_frame s r (TR6.toWord s.trLayout s.tr6 s.freeNow) (Instr.movRTr6 h r).length
    have value := written.1
    rw [value]
    refine ⟨written, bytes, rest, fun hl => ?_⟩
    have fields := tr6_bits hl s.tr6 s.freeNow
    exact ⟨congrArg TR6.lin fields, congrArg TR6.v fields, congrArg TR6.d fields, congrArg TR6.dn fields, congrArg TR6.u fields,
      congrArg TR6.un fields, congrArg TR6.w fields, congrArg TR6.wn fields, congrArg TR6.c fields⟩
  · obtain ⟨written, bytes, rest⟩ :=
      readSpecial_drawn_frame s r (TR7.toWord s.trLayout s.tr7 s.freeNow) (Instr.movRTr7 h r).length
    have value := written.1
    rw [value]
    refine ⟨written, bytes, rest, fun hl => ?_⟩
    have fields := tr7_bits hl s.tr7 s.freeNow
    exact ⟨congrArg TR7.phys fields, congrArg TR7.ht fields, congrArg TR7.rep fields⟩

/-! ## Stops of the commands -/

theorem covers_iff {m : TlbMark} {v : Bool} : m.covers v = true ↔ m = .undefined ∨ m = .undefinedV0 ∧ v = false := by
  cases m <;> cases v <;> decide

namespace CommandReady

variable {s : State} {x : DWord}

theorem privileged (h : CommandReady s x) : Privileged s := h.1

theorem pagingOff (h : CommandReady s x) : s.pg = false := h.2.1

theorem not_covers (h : CommandReady s x) : s.tlbMark.covers (x.getLsbD s.trLayout.v) = false :=
  (covers_false_iff _ _).mpr h.2.2

end CommandReady

theorem hasUninitialised_of_entry {t : Tlb} {b : BitVec 2} {i : BitVec 3} (h : (Tlb.entry t b i).written = false) :
    Tlb.hasUninitialised t = true :=
  List.any_eq_true.mpr ⟨(b, i), places_mem b i, by simp [h]⟩

theorem pairValue_of_eq {a b : Bool} (h : a = b) : pairValue a b = refuse .tlbPairIllFormed := if_pos h

theorem pairValue_of_ne {a b : Bool} (h : a ≠ b) : pairValue a b = .ok a := if_neg h

/-- A pair that is not complementary stops the command (R236). -/
theorem pairs_illFormed {l : TrLayout} {x : DWord} (h : ¬ PairsFormed l x) :
    pairValues (TR6.ofWord l x) = refuse .tlbPairIllFormed := by
  have complement (a b : Bool) : b = !a ↔ a ≠ b := by cases a <;> cases b <;> decide
  rw [PairsFormed, complement, complement, complement] at h
  unfold pairValues TR6.ofWord
  by_cases hd : x.getLsbD l.d = x.getLsbD l.dn
  · rw [pairValue_of_eq hd]; rfl
  by_cases hu : x.getLsbD l.u = x.getLsbD l.un
  · rw [pairValue_of_ne hd, pairValue_of_eq hu]; rfl
  have hw : x.getLsbD l.w = x.getLsbD l.wn := not_not.mp fun hw => h ⟨hd, hu, hw⟩
  rw [pairValue_of_ne hd, pairValue_of_ne hu, pairValue_of_eq hw]; rfl

section Stops

variable {l : TrLayout} {x : DWord} {s : State}

theorem tlbWrite_covered (hm : s.tlbMark.covers (x.getLsbD l.v) = true) : tlbWrite (TR6.ofWord l x) s = refuse .tlbUndefined :=
  if_pos hm

theorem tlbLookup_covered (hm : s.tlbMark.covers (x.getLsbD l.v) = true) : tlbLookup (TR6.ofWord l x) s = refuse .tlbUndefined :=
  if_pos hm

variable (hm : s.tlbMark.covers (x.getLsbD l.v) = false)

include hm

/-- A write under no mark: HT, then the pairs (R234, R236; log 25). -/
theorem tlbWrite_uncovered : tlbWrite (TR6.ofWord l x) s =
    if s.tr7.ht = false then refuse .tlbWriteHtClear
    else (pairValues (TR6.ofWord l x)).map fun p =>
      { s with
        tlb := tlbAfterWrite s (TR6.ofWord l x) p
        tlbMark := markAfterWrite s.tlbMark (tlbAfterWrite s (TR6.ofWord l x) p) s.tr7.rep
          (tlbIndex s.tlbIndexTable (x.extractLsb' l.lin 20)) } := by
  have uncovered : ¬ s.tlbMark.covers (TR6.ofWord l x).v = true := by rw [Bool.not_eq_true]; exact hm
  rw [tlbWrite, if_neg uncovered]
  simp only [Bool.not_eq_true']
  rfl

/-- A lookup under no mark: the entries' tags, then the pairs (R235, R236, R240; log 25). -/
theorem tlbLookup_uncovered : tlbLookup (TR6.ofWord l x) s =
    if x.getLsbD l.v = false ∧ Tlb.hasUninitialised s.tlb = true then refuse .tlbUninitialisedTags
    else (pairValues (TR6.ofWord l x)).bind fun p => tlbReport s (tlbMatches s.tlb (TR6.ofWord l x) p) := by
  have uncovered : ¬ s.tlbMark.covers (TR6.ofWord l x).v = true := by rw [Bool.not_eq_true]; exact hm
  rw [tlbLookup, if_neg uncovered]
  simp only [Bool.and_eq_true, Bool.not_eq_true']
  rfl

end Stops

/-- A command under the mark of duplicate tags is refused (R241; log 24). -/
theorem tlbCommand_covered {s : State} {x : DWord} (hm : s.tlbMark.covers (x.getLsbD s.trLayout.v) = true) :
    tlbCommand s x = refuse .tlbUndefined := by
  cases hc : x.getLsbD s.trLayout.c with
  | false => exact (tlbCommand_write hc).trans (tlbWrite_covered hm)
  | true => exact (tlbCommand_lookup hc).trans (tlbLookup_covered hm)

/-- A MOV to TR6 whose command is refused. -/
theorem exec_movTr6R_refused {s : State} (hp : Privileged s) (hpg : s.pg = false) (h : Hdr) {r : Reg} {e : Refusal}
    (he : tlbCommand s (s.reg 32 r) = refuse e) : exec (.movTr6R h r) s = .refused e := by
  rw [exec_movTr6R_command hp h r hpg, he]
  rfl

/-- Settles O21: by the checks in the order in which the commands make them. -/
theorem tlbCommandStops : Obligations.TlbCommandStops := by
  rintro s h r x rfl hp
  refine ⟨exec_movTr6R_paging hp h r, fun hpg hm => ?_, fun ready => ?_⟩
  · exact exec_movTr6R_refused hp hpg h (tlbCommand_covered (covers_iff.mpr hm))
  have stop {e : Refusal} : tlbCommand s (s.reg 32 r) = refuse e → exec (.movTr6R h r) s = .refused e :=
    exec_movTr6R_refused hp ready.pagingOff h
  have write := tlbWrite_uncovered (s := s.withTr6 (s.reg 32 r)) ready.not_covers
  have lookup := tlbLookup_uncovered (s := s.withTr6 (s.reg 32 r)) ready.not_covers
  refine ⟨fun hc ht => stop ?_, fun hc hv ⟨b, i, hw⟩ => stop ?_, fun hr bad => stop ?_⟩
  · exact (tlbCommand_write hc).trans (write.trans (if_pos ht))
  · exact (tlbCommand_lookup hc).trans (lookup.trans (if_pos ⟨hv, hasUninitialised_of_entry hw⟩))
  · obtain ⟨hc, ht⟩ | ⟨hc, hv⟩ := hr
    · rw [tlbCommand_write hc, write, if_neg (fun e => Bool.false_ne_true (e.symm.trans ht)), pairs_illFormed bad]
      rfl
    · rw [tlbCommand_lookup hc, lookup, if_neg (fun e => Bool.false_ne_true (e.1.symm.trans hv)), pairs_illFormed bad]
      rfl

/-! ## Privilege -/

/-- An operation begun in `s` that takes no event: it goes through with the run state as it was, or is refused for a reason other than the
delivery of an event. -/
def TakesNoEvent (s : State) : Res State → Prop
  | .ok t => t.run = s.run
  | .error (.refuse r) => ∀ ev, r ≠ .delivery ev
  | .error (.raise _) => False

namespace TakesNoEvent

variable {s : State}

theorem endSpecial {x : Res State} (hx : TakesNoEvent s x) (n : Nat) : TakesNoEvent s (x.map fun t => t.endSpecial n) := by
  cases x with
  | ok t => exact hx
  | error e => exact hx

theorem conclude {x : Res State} (hx : TakesNoEvent s x) :
    (∀ ev, Machine.conclude s x ≠ .refused (.delivery ev)) ∧ ∀ t, Machine.conclude s x = .next t → t.run = s.run := by
  match x, hx with
  | .ok u, hx => exact ⟨fun ev e => (nomatch e), fun t e => by cases e; exact hx⟩
  | .error (.refuse r), hx => exact ⟨fun ev e => hx ev (by cases e; rfl), fun t e => nomatch e⟩

end TakesNoEvent

section Commands

variable {l : TrLayout} {x : DWord} {s u : State} (hu : u.run = s.run)

include hu

theorem tlbReport_takesNoEvent : ∀ q, TakesNoEvent s (tlbReport u q)
  | [] => hu
  | [_] => hu
  | _ :: _ :: _ => fun _ e => nomatch e

theorem tlbWrite_takesNoEvent : TakesNoEvent s (tlbWrite (TR6.ofWord l x) u) := by
  cases hm : u.tlbMark.covers (x.getLsbD l.v) with
  | true => rw [tlbWrite_covered hm]; exact fun _ e => nomatch e
  | false =>
    rw [tlbWrite_uncovered hm]
    split
    · exact fun _ e => nomatch e
    · by_cases hpf : PairsFormed l x
      · rw [pairs_ok hpf]; exact hu
      · rw [pairs_illFormed hpf]; exact fun _ e => nomatch e

theorem tlbLookup_takesNoEvent : TakesNoEvent s (tlbLookup (TR6.ofWord l x) u) := by
  cases hm : u.tlbMark.covers (x.getLsbD l.v) with
  | true => rw [tlbLookup_covered hm]; exact fun _ e => nomatch e
  | false =>
    rw [tlbLookup_uncovered hm]
    split
    · exact fun _ e => nomatch e
    · by_cases hpf : PairsFormed l x
      · rw [pairs_ok hpf]; exact tlbReport_takesNoEvent hu _
      · rw [pairs_illFormed hpf]; exact fun _ e => nomatch e

end Commands

theorem tlbCommand_takesNoEvent (s : State) (x : DWord) : TakesNoEvent s (tlbCommand s x) := by
  cases hc : x.getLsbD s.trLayout.c with
  | false => rw [tlbCommand_write hc]; exact tlbWrite_takesNoEvent rfl
  | true => rw [tlbCommand_lookup hc]; exact tlbLookup_takesNoEvent rfl

/-- Settles O14: at another level the privilege check raises; where it passes, no move of a test register raises anything. -/
theorem testRegisterPrivilege : Obligations.TestRegisterPrivilege := by
  intro s h r i hi
  refine ⟨fun hpe hcpl => ?_, fun hp => ?_⟩
  · have trap : s.requireCpl0 = .error (.raise (.generalProtection 0)) := requireCpl0_raise hpe hcpl
    have trapDrawn : s.drawn.requireCpl0 = .error (.raise (.generalProtection 0)) := trap
    obtain rfl | rfl | rfl | rfl := hi
    · change execMovRTr6 h r s = _
      rw [execMovRTr6, readSpecial, trapDrawn, error_map, conclude_raise]
    · change execMovRTr7 h r s = _
      rw [execMovRTr7, readSpecial, trapDrawn, error_map, conclude_raise]
    · change execMovTr6R h r s = _
      rw [execMovTr6R, trap, error_bind, conclude_raise]
    · change execMovTr7R h r s = _
      rw [execMovTr7R, trap, error_map, conclude_raise]
  · have quiet (t : State) (ht : t.run = s.run) :
        (∀ ev, (.next t : Out) ≠ .refused (.delivery ev)) ∧ ∀ u, (.next t : Out) = .next u → u.run = s.run :=
      TakesNoEvent.conclude (s := s) (x := .ok t) ht
    obtain rfl | rfl | rfl | rfl := hi
    · rw [exec_movRTr6_privileged hp]; exact quiet _ rfl
    · rw [exec_movRTr7_privileged hp]; exact quiet _ rfl
    · cases hpg : s.pg with
      | true => rw [exec_movTr6R_paging hp h r hpg]; exact ⟨fun ev e => (nomatch e), fun t e => nomatch e⟩
      | false => rw [exec_movTr6R_command hp h r hpg]; exact ((tlbCommand_takesNoEvent s _).endSpecial _).conclude
    · rw [exec_movTr7R_privileged hp]; exact quiet _ rfl

/-! ## The write command -/

/-- Another block holds the tag: `Tlb.duplicates` in the terms of the statements (R234, R241). -/
theorem duplicates_iff {t : Tlb} {b : BitVec 2} {i : BitVec 3} {e : TlbEntry} :
    t.duplicates b i e = true ↔ ∃ c, c ≠ b ∧ (Tlb.entry t c i).sameTag e = true := by
  have blocks (c : BitVec 2) : c ∈ ([0, 1, 2, 3] : List (BitVec 2)) := by revert c; decide
  simp only [Tlb.duplicates, List.any_eq_true, blocks, true_and, Bool.and_eq_true, bne_iff_ne]

theorem sameTag_iff {l : TrLayout} {e f : TlbEntry} {x : DWord} (hf : TagIs l f x) : e.sameTag f = true ↔ TagIs l e x := by
  obtain ⟨hlin, hv, hd, hu, hw⟩ := hf
  simp [TlbEntry.sameTag, TagIs, hlin, hv, hd, hu, hw, and_assoc]

/-- The mark after a write, by what the other blocks hold at the index and by the entries rewritten since CR3 (R241; log 24). -/
theorem markAfterWrite_cases (m : TlbMark) (t : Tlb) (b : BitVec 2) (i : BitVec 3) :
    (t.duplicates b i (t.entry b i) = true → markAfterWrite m t b i = .undefined) ∧
    (t.duplicates b i (t.entry b i) = false →
      (m = .clean → markAfterWrite m t b i = .clean) ∧
      (m = .undefinedV0 →
        ((∀ c j, (Tlb.entry t c j).rewritten = true) → markAfterWrite m t b i = .clean) ∧
        ((∃ c j, (Tlb.entry t c j).rewritten = false) → markAfterWrite m t b i = .undefinedV0))) := by
  refine ⟨fun hd => if_pos hd, fun hd => ?_⟩
  rw [markAfterWrite, if_neg (by simp [hd])]
  refine ⟨fun hm => ?_, fun hm => ⟨fun all => ?_, fun ⟨c, j, left⟩ => ?_⟩⟩
  · rw [if_neg (by simp [hm]), hm]
  · exact if_pos ⟨hm, List.all_eq_true.mpr fun p _ => all p.1 p.2⟩
  · have notAll : ¬ (Tlb.places.all fun p => (Tlb.entry t p.1 p.2).rewritten) = true := fun all =>
      Bool.false_ne_true (left.symm.trans (List.all_eq_true.mp all (c, j) (places_mem c j)))
    rw [if_neg fun both => notAll both.2, hm]

/-- TLB_INDEX of the linear address in a command word (R244). -/
def commandIndex (s : State) (x : DWord) : BitVec 3 := tlbIndex s.tlbIndexTable (x.extractLsb' s.trLayout.lin 20)

/-- The entry that a write command of `x` stores (R234). -/
def commandEntry (s : State) (x : DWord) : TlbEntry :=
  writtenEntry s (TR6.ofWord s.trLayout x) (x.getLsbD s.trLayout.d, x.getLsbD s.trLayout.u, x.getLsbD s.trLayout.w)

theorem commandEntry_tagIs (s : State) (x : DWord) : TagIs s.trLayout (commandEntry s x) x := ⟨rfl, rfl, rfl, rfl, rfl⟩

/-- The TLB after a write command of `x` (R234). -/
def commandTlb (s : State) (x : DWord) : Tlb := Tlb.put s.tlb s.tr7.rep (commandIndex s x) (commandEntry s x)

theorem commandTlb_entry (s : State) (x : DWord) (b : BitVec 2) (i : BitVec 3) : Tlb.entry (commandTlb s x) b i =
    if b = s.tr7.rep ∧ i = commandIndex s x then commandEntry s x else Tlb.entry s.tlb b i :=
  entry_put s.tlb s.tr7.rep b (commandIndex s x) i (commandEntry s x)

theorem commandTlb_entry_same (s : State) (x : DWord) :
    Tlb.entry (commandTlb s x) s.tr7.rep (commandIndex s x) = commandEntry s x := by
  rw [commandTlb_entry, if_pos ⟨rfl, rfl⟩]

/-- The entry just stored is a duplicate when another block already held its tag (R241). -/
theorem commandTlb_duplicates_iff (s : State) (x : DWord) :
    (commandTlb s x).duplicates s.tr7.rep (commandIndex s x) (Tlb.entry (commandTlb s x) s.tr7.rep (commandIndex s x)) = true ↔
      ∃ b, b ≠ s.tr7.rep ∧ TagIs s.trLayout (Tlb.entry s.tlb b (commandIndex s x)) x := by
  rw [commandTlb_entry_same, duplicates_iff]
  refine exists_congr fun b => and_congr_right fun hb => ?_
  rw [sameTag_iff (commandEntry_tagIs s x), commandTlb_entry, if_neg fun same => hb same.1]

/-- The state after a write command of `x` (R234, R241). -/
def afterTlbWrite (s : State) (x : DWord) : State :=
  { s.withTr6 x with
    tlb := commandTlb s x, tlbMark := markAfterWrite s.tlbMark (commandTlb s x) s.tr7.rep (commandIndex s x) }

theorem tlbCommand_write_ready {s : State} {x : DWord} (hr : CommandReady s x) (hc : x.getLsbD s.trLayout.c = false)
    (hpf : PairsFormed s.trLayout x) (ht : s.tr7.ht = true) : tlbCommand s x = .ok (afterTlbWrite s x) := by
  rw [tlbCommand_write hc, tlbWrite_uncovered (s := s.withTr6 x) hr.not_covers,
    if_neg (fun e => Bool.false_ne_true (e.symm.trans ht)), pairs_ok hpf]
  rfl

/-- The part's TLB_INDEX, where its table is empty: bits 14:12 of the linear address, which the field LIN begins with (R244; log 7). -/
theorem tlbIndex_nil (x : DWord) (k : Nat) : tlbIndex [] (x.extractLsb' k 20) = x.extractLsb' k 3 := by
  apply BitVec.eq_of_getLsbD_eq
  intro j hj
  have h20 : j < 20 := by omega
  simp [tlbIndex, hj, h20]

theorem testOnly_afterTlbWrite (s : State) (x : DWord) : TestOnly s (afterTlbWrite s x) := ⟨rfl, rfl, rfl, rfl, rfl⟩

/-- What a write command leaves of the system registers (R233, R234). -/
theorem afterTlbWrite_sys (s : State) (x : DWord) : (afterTlbWrite s x).sys =
    { s.sys with
      tr6 := TR6.ofWord s.trLayout x, tlb := (afterTlbWrite s x).tlb, tlbMark := (afterTlbWrite s x).tlbMark } := rfl

/-- Settles O45: one entry is stored, and the mark is that of `markAfterWrite`. -/
theorem tlbWriteCommand : Obligations.TlbWriteCommand := by
  rintro s h r x l j rfl rfl rfl hr hc hpf ht
  have ends : exec (.movTr6R h r) s = .next ((afterTlbWrite s (s.reg 32 r)).endSpecial (Instr.movTr6R h r).length) := by
    rw [exec_movTr6R_command hr.privileged h r hr.pagingOff, tlbCommand_write_ready hr hc hpf ht, ok_map, conclude_ok]
  have here := commandTlb_entry_same s (s.reg 32 r)
  have duplicate := commandTlb_duplicates_iff s (s.reg 32 r)
  obtain ⟨duplicated, single⟩ := markAfterWrite_cases s.tlbMark (commandTlb s (s.reg 32 r)) s.tr7.rep (commandIndex s (s.reg 32 r))
  obtain ⟨data, flags, eip⟩ := (testOnly_afterTlbWrite s (s.reg 32 r)).endSpecial_frame (Instr.movTr6R h r).length
  refine ⟨_, ends, data, flags, eip, fun hn => by rw [hn, tlbIndex_nil], ?_, ?_, ?_,
    fun b i elsewhere => (commandTlb_entry s _ b i).trans (if_neg elsewhere), fun held => duplicated (duplicate.mpr held),
    fun unheld => ?_, afterTlbWrite_sys s (s.reg 32 r)⟩
  · exact (congrArg (TagIs s.trLayout · (s.reg 32 r)) here).mpr (commandEntry_tagIs s _)
  · exact congrArg TlbEntry.phys here
  · exact congrArg TlbEntry.written here
  · obtain ⟨clean, marked⟩ := single (Bool.eq_false_iff.mpr fun hd =>
      let ⟨b, hb, htag⟩ := duplicate.mp hd
      unheld b hb htag)
    exact ⟨clean, fun hm => ⟨(congrArg TlbEntry.rewritten here).trans (decide_eq_true hm), marked hm⟩⟩

/-! ## The lookup command -/

/-- What a hit leaves in TR6 is the command, since the tag of the entry is that of the command (R235). -/
theorem tlbHit_tr6 {s : State} {x : DWord} {e : TlbEntry} (hpf : PairsFormed s.trLayout x) (htag : TagIs s.trLayout e x)
    (b : BitVec 2) : (tlbHit (s.withTr6 x) b e).tr6 = TR6.ofWord s.trLayout x := by
  obtain ⟨-, hv, hd, hu, hw⟩ := htag
  obtain ⟨hdn, hun, hwn⟩ := hpf
  simp only [tlbHit, State.withTr6, TR6.ofWord, hv, hd, hu, hw, hdn, hun, hwn]

section Lookup

variable {s : State} {x : DWord} (hr : CommandReady s x) (hc : x.getLsbD s.trLayout.c = true) (hpf : PairsFormed s.trLayout x)
  (hv : x.getLsbD s.trLayout.v = true ∨ ∀ b i, (Tlb.entry s.tlb b i).written = true)

include hr hc hpf hv

theorem tlbCommand_hit {b : BitVec 2} {i : BitVec 3} (htag : TagIs s.trLayout (Tlb.entry s.tlb b i) x)
    (only : ∀ c j, TagIs s.trLayout (Tlb.entry s.tlb c j) x → c = b ∧ j = i) :
    tlbCommand s x = .ok (tlbHit (s.withTr6 x) b (Tlb.entry s.tlb b i)) := by
  have found : tlbMatches s.tlb (TR6.ofWord s.trLayout x)
      (x.getLsbD s.trLayout.d, x.getLsbD s.trLayout.u, x.getLsbD s.trLayout.w) = [(b, i)] :=
    filter_unique places_nodup (places_mem b i) ((matches_iff _ _ _).mpr htag) fun q _ hq => by
      obtain ⟨hb, hi⟩ := only q.1 q.2 ((matches_iff _ _ _).mp hq)
      exact Prod.ext hb hi
  rw [tlbCommand_lookup hc, lookup_ready (s := s.withTr6 x) hr.not_covers hpf hv]
  exact congrArg (tlbReport (s.withTr6 x)) found

theorem tlbCommand_miss (unheld : ∀ b i, ¬ TagIs s.trLayout (Tlb.entry s.tlb b i) x) :
    tlbCommand s x = .ok (tlbMiss (s.withTr6 x)) := by
  have found : tlbMatches s.tlb (TR6.ofWord s.trLayout x)
      (x.getLsbD s.trLayout.d, x.getLsbD s.trLayout.u, x.getLsbD s.trLayout.w) = [] :=
    List.filter_eq_nil_iff.mpr fun q _ hq => unheld q.1 q.2 ((matches_iff _ _ _).mp hq)
  rw [tlbCommand_lookup hc, lookup_ready (s := s.withTr6 x) hr.not_covers hpf hv]
  exact congrArg (tlbReport (s.withTr6 x)) found

end Lookup

/-- Settles O46: by whether one entry matches or none. -/
theorem tlbLookupCommand : Obligations.TlbLookupCommand := by
  rintro s h r x l rfl rfl hr hc hpf hv
  have ends := exec_movTr6R_command hr.privileged h r hr.pagingOff
  refine ⟨fun b i htag only => ?_, fun unheld => ?_⟩
  · rw [tlbCommand_hit hr hc hpf hv htag only, ok_map, conclude_ok] at ends
    obtain ⟨data, flags, eip⟩ :=
      (testOnly_tlbHit s (s.reg 32 r) b (Tlb.entry s.tlb b i)).endSpecial_frame (Instr.movTr6R h r).length
    refine ⟨_, ends, data, flags, eip, ?_⟩
    rw [endSpecial_sys, (testOnly_tlbHit s _ b _).sys, tlbHit_tr6 hpf htag b]
    rfl
  · rw [tlbCommand_miss hr hc hpf hv unheld, ok_map, conclude_ok] at ends
    obtain ⟨data, flags, eip⟩ := (testOnly_tlbMiss s (s.reg 32 r)).endSpecial_frame (Instr.movTr6R h r).length
    refine ⟨_, ends, data, flags, eip, ?_, ?_⟩
    all_goals rw [endSpecial_tr7]
    · rfl
    · rw [endSpecial_sys, (testOnly_tlbMiss s _).sys]
      rfl

/-! ## A write, then a lookup -/

/-- Two command words that differ in C alone. -/
def SameButC (l : TrLayout) (x y : DWord) : Prop := ∀ k, k ≠ l.c.val → y.getLsbD k = x.getLsbD k

/-- In a layout whose fields lie apart C is part of no other field of TR6 (R28; log 7). -/
theorem c_apart {l : TrLayout} (hl : l.wf = true) :
    (∀ p, p ∈ [l.v, l.d, l.dn, l.u, l.un, l.w, l.wn] → p.val ≠ l.c.val) ∧ (l.c.val < l.lin.val ∨ l.lin.val + 20 ≤ l.c.val) := by
  simp only [TrLayout.wf, Bool.and_eq_true, decide_eq_true_eq, List.all_eq_true] at hl
  obtain ⟨⟨⟨⟨distinct, outside⟩, -⟩, -⟩, -⟩ := hl
  have apart : List.Disjoint [l.v, l.d, l.dn, l.u, l.un, l.w, l.wn] [l.c] := List.disjoint_of_nodup_append distinct
  exact ⟨fun p hp e => apart hp (List.mem_singleton.mpr (Fin.ext e)), outside l.c (by simp)⟩

section SameButC

variable {l : TrLayout} (hl : l.wf = true) {x y : DWord} (hxy : SameButC l x y)

include hl hxy

theorem SameButC.bit {p : Fin 32} (hp : p ∈ [l.v, l.d, l.dn, l.u, l.un, l.w, l.wn]) : y.getLsbD p = x.getLsbD p :=
  hxy p ((c_apart hl).1 p hp)

theorem SameButC.lin : y.extractLsb' l.lin 20 = x.extractLsb' l.lin 20 := by
  have outside := (c_apart hl).2
  apply BitVec.eq_of_getLsbD_eq
  intro k hk
  rw [BitVec.getLsbD_extractLsb', BitVec.getLsbD_extractLsb', hxy (l.lin + k) (by omega)]

theorem SameButC.tagIs (e : TlbEntry) : TagIs l e y ↔ TagIs l e x := by
  rw [TagIs, TagIs, SameButC.lin hl hxy, SameButC.bit hl hxy (p := l.v) (by simp), SameButC.bit hl hxy (p := l.d) (by simp),
    SameButC.bit hl hxy (p := l.u) (by simp), SameButC.bit hl hxy (p := l.w) (by simp)]

theorem SameButC.pairsFormed : PairsFormed l y ↔ PairsFormed l x := by
  rw [PairsFormed, PairsFormed, SameButC.bit hl hxy (p := l.d) (by simp), SameButC.bit hl hxy (p := l.dn) (by simp),
    SameButC.bit hl hxy (p := l.u) (by simp), SameButC.bit hl hxy (p := l.un) (by simp), SameButC.bit hl hxy (p := l.w) (by simp),
    SameButC.bit hl hxy (p := l.wn) (by simp)]

end SameButC

/-- A MOV to TR6 that goes through has paging off, and a write that goes through has HT = 1 (R234, R242). -/
theorem write_went_through {s t : State} {h : Hdr} {r : Reg} (hp : Privileged s) (hm : s.tlbMark = .clean)
    (hc : (s.reg 32 r).getLsbD s.trLayout.c = false) (ends : exec (.movTr6R h r) s = .next t) :
    CommandReady s (s.reg 32 r) ∧ s.tr7.ht = true := by
  obtain ⟨paging, -, stops⟩ := tlbCommandStops s h r _ rfl hp
  have hpg : s.pg = false := Bool.eq_false_iff.mpr fun hpg => nomatch ends.symm.trans (paging hpg)
  have ready : CommandReady s (s.reg 32 r) := ⟨hp, hpg, .inl hm⟩
  obtain ⟨htClear, -⟩ := stops ready
  exact ⟨ready, Bool.not_eq_false _ |>.mp fun ht => nomatch ends.symm.trans (htClear hc ht)⟩

/-- Settles O47: by what the write leaves (O45) and what the lookup finds there (O46). -/
theorem tlbWriteThenLookup : Obligations.TlbWriteThenLookup := by
  rintro s t h g r q x y l rfl rfl rfl hl hm hc hyc hxy hv hpf hp unheld ends
  obtain ⟨ready, ht⟩ := write_went_through hp hm hc ends
  obtain ⟨t', ends', ⟨gpr, -⟩, -, -, -, tag, phys, -, others, -, single, sys⟩ :=
    tlbWriteCommand s h r _ _ _ rfl rfl rfl ready hc hpf ht
  obtain rfl : t = t' := by simpa using ends.symm.trans ends'
  have clean : t.tlbMark = .clean := (single fun b _ => unheld b _).1 hm
  have layout : t.trLayout = s.trLayout := congrArg SystemView.trLayout sys
  have cr0 : t.cr0 = s.cr0 := congrArg SystemView.cr0 sys
  have cpl : t.cpl = s.cpl := congrArg SystemView.cpl sys
  have word : t.reg 32 q = s.reg 32 q := by rw [State.reg, State.reg, gpr]
  have same (e : TlbEntry) := SameButC.tagIs hl hxy e
  have ready' : CommandReady t (s.reg 32 q) := by
    refine ⟨?_, ?_, .inl clean⟩
    · rw [Privileged, State.pe, cr0, cpl]; exact hp
    · rw [State.pg, cr0]; exact ready.pagingOff
  obtain ⟨hit, -⟩ := tlbLookupCommand t g q _ _ word.symm layout.symm ready' hyc ((SameButC.pairsFormed hl hxy).mpr hpf)
    (.inl ((SameButC.bit hl hxy (p := s.trLayout.v) (by simp)).trans hv))
  obtain ⟨u, finds, -, -, -, found⟩ := hit _ _ ((same _).mpr tag) fun c j hcj => by
    by_contra elsewhere
    rw [others c j elsewhere] at hcj
    exact unheld c j ((same _).mp hcj)
  refine ⟨u, finds, (congrArg SystemView.tr7 found).trans ?_, congrArg SystemView.tlb found⟩
  rw [phys]

end Sys2Proof.Machine

/-! # Exceptions and run states

The taking of an event, the states in which no instruction executes, the privileged instructions, and that only RESET leaves protected mode
(spec/60_exceptions.md R260 to R266, R271 to R273; 41_control_register_moves.md R156). -/

namespace Sys2Proof.Machine

open Sys2Proof

/-! ## Interrupts (R261, R264) -/

section Interrupts

variable {s : State}

theorem interrupt_of_nmi (hoff : s.holdOff = false) (hnmi : s.inputs.nmi = true) :
    s.interrupt = some (takeEvent .nmi (s.clearNmi.setRepeat none)) := by
  simp [State.interrupt, hoff, hnmi]

theorem interrupt_of_request (hoff : s.holdOff = false) (hnmi : s.inputs.nmi = false) (hintr : s.inputs.intr = true)
    (hif : s.eflags.ifl = true) : s.interrupt = some (takeEvent .interrupt (s.setRepeat none)) := by
  simp [State.interrupt, hoff, hnmi, hintr, hif]

theorem step_of_interrupt {o : Out} (hrun : s.run = .running) (hreset : s.inputs.reset = none) (h : s.interrupt = some o) :
    step s = o := by
  simp [step, beginStep, hreset, hrun, h]

end Interrupts

/-- Settles O12: each event is taken, so that the limit decides; an NMI or a request ends a REP MOVS, and the NMI is consumed. -/
theorem zeroLimitShutsDown : Obligations.ZeroLimitShutsDown := by
  refine ⟨fun s e => ?_, fun s hrun hreset hoff hnmi => ?_, fun s hrun hreset hoff hnmi hintr hif => ?_⟩
  · exact conclude_raise s e
  · exact step_of_interrupt hrun hreset (interrupt_of_nmi hoff hnmi)
  · exact step_of_interrupt hrun hreset (interrupt_of_request hoff hnmi hintr hif)

/-! ## Shutdown and halted (R272, R273; 40_control_transfers.md R136) -/

section QuietRuns

variable {s : State}

theorem step_of_shutdown (hrun : s.run = .shutdown) (hreset : s.inputs.reset = none) :
    step s = if s.inputs.nmi then .refused .nmiInShutdown else .fault .shutdown := by
  simp [step, beginStep, hreset, hrun]

theorem step_of_halted (hrun : s.run = .halted) (hreset : s.inputs.reset = none) : step s = .fault .halted := by
  simp [step, beginStep, hreset, hrun]

end QuietRuns

/-- Settles O13: RESET apart, the run state decides the step before any interrupt is looked at. -/
theorem quietStates : Obligations.QuietStates := ⟨fun _ => step_of_shutdown, fun _ => step_of_halted⟩

/-! ## Privileged instructions (R260, R271) -/

/-- Settles O15: each form makes the privilege check first, LTR after the check for protected mode. -/
theorem privilegedInstructions : Obligations.PrivilegedInstructions := by
  intro s h r m rm i hi hpe hcpl
  have trap : s.requireCpl0 = .error (.raise (.generalProtection 0)) := requireCpl0_raise hpe hcpl
  obtain rfl | rfl | rfl | rfl | rfl | rfl | rfl | rfl := hi
  · change execMovRCr0 h r s = _
    rw [execMovRCr0, readSpecial, trap, error_map, conclude_raise]
  · change execMovCr0R h r s = _
    rw [execMovCr0R, trap, error_bind, conclude_raise]
  · change execMovRCr3 h r s = _
    rw [execMovRCr3, readSpecial, trap, error_map, conclude_raise]
  · change execMovCr3R h r s = _
    rw [execMovCr3R, trap, error_map, conclude_raise]
  · change execLgdt h m s = _
    rw [execLgdt, trap, error_bind, conclude_raise]
  · change execLidt h m s = _
    rw [execLidt, trap, error_bind, conclude_raise]
  · change execLtr h rm s = _
    rw [execLtr, requireProtected_ok hpe, ok_bind, trap, error_bind, conclude_raise]
  · change execHlt h s = _
    rw [execHlt, trap, error_map, conclude_raise]

/-! ## Protected mode (R271; 41_control_register_moves.md R156) -/

theorem Quiet.pe {s t : State} (h : Quiet s t) : t.pe = s.pe :=
  congrArg (fun v : SystemView => v.cr0.getLsbD 0) h.sys

/-- A special update leaves CR0 as it was, or is a write of CR0, which does not clear PE. -/
theorem Special.keeps_pe {i : Instr} {s t : State} (h : Special s i t) (hs : s.pe = true) : t.pe = true := by
  cases h with
  | cr0Written h r hp hpg hpe => exact hpe hs
  | segLoaded h sr rm v =>
    have noted := (noteSsLoad_sys sr (s.setSeg sr v)).1
    exact (congrArg (fun v : SystemView => v.cr0.getLsbD 0) noted).trans hs
  | _ => exact hs

theorem exec_keeps_pe {i : Instr} {s t : State} (hs : s.pe = true) (e : exec i s = .next t) : t.pe = true := by
  obtain ⟨u, hu, hq⟩ := exec_effect e
  exact hq.pe.trans (hu.keeps_pe hs)

/-- Settles O55: by the cases of a step; a shutdown and the end of the hold-off leave CR0 as it was, and no instruction clears PE. -/
theorem protectedModeStays : Obligations.ProtectedModeStays := by
  intro s t hreset hs h
  obtain ⟨p, hp, -⟩ | ⟨-, -, ⟨u, hu, rfl⟩ | ⟨i, u, hu, e⟩⟩ := step_cases h
  · exact nomatch hreset.symm.trans hp
  · obtain rfl | rfl | rfl := hu <;> exact hs
  · refine exec_keeps_pe ?_ e
    obtain rfl | rfl := hu <;> exact hs

end Sys2Proof.Machine

/-! # RESET and the prefetch queue

What RESET leaves, that the invariants hold in the model's own start, and the rule for the instruction after a change of PE or PG
(spec/70_reset_and_hazards.md R290, R291, R299, R300; 40_control_transfers.md R137). -/

namespace Sys2Proof.Machine

open Sys2Proof

/-! ## The reset function (R291) -/

section Reset

variable (s : State) (p : ResetParams)

theorem takeReset_eax {v : DWord} (h : p.selftest = some v) : (s.takeReset p).gpr.eax = v := by
  change p.selftest.getD p.undef.eax = v
  rw [h, Option.getD_some]

/-- DH holds the component identifier and DL the stepping identifier. -/
theorem takeReset_edx : (s.takeReset p).gpr.edx.extractLsb' 8 8 = 0x03#8 ∧ (s.takeReset p).gpr.edx.extractLsb' 0 8 = p.steppingId :=
  ⟨resetEdx_dh p.undef.edxHigh p.steppingId, resetEdx_dl p.undef.edxHigh p.steppingId⟩

/-- Of the low bits of CR0 only ET can be set (10_state.md R42). -/
theorem takeReset_cr0_low {k : Nat} (hk : k < 5) : (s.takeReset p).cr0.getLsbD k = (decide (k = 4) && p.coprocessorIs80387) :=
  resetCr0_low p.undef.cr0Reserved p.coprocessorIs80387 hk

theorem takeReset_eflags : (s.takeReset p).eflags.toWord = 0x00000002 := by
  change (Eflags.ofWord 0x00000002).toWord = 0x00000002
  decide

theorem takeReset_seg_get {q : SReg} (hq : q ≠ .cs) : (s.takeReset p).seg.get q = SegReg.afterReset 0 0 := by
  cases q with
  | cs => exact absurd rfl hq
  | _ => rfl

theorem takeReset_entry (b : BitVec 2) (i : BitVec 3) :
    Tlb.entry (s.takeReset p).tlb b i = (Tlb.entry p.undef.tlb b i).afterReset :=
  entry_mapEntries TlbEntry.afterReset p.undef.tlb b i

end Reset

/-- Settles O10: RESET is taken whatever the run state, and its registers are those of the reset function. -/
theorem resetFunction : Obligations.ResetFunction := by
  intro s p h
  obtain ⟨dh, dl⟩ := takeReset_edx s p
  have cr0 {k : Nat} (hk : k < 5) := takeReset_cr0_low s p hk
  refine ⟨_, step_of_reset h, fun v hv => takeReset_eax s p hv, dh, dl, cr0 (by decide), takeReset_pg s p, cr0 (by decide),
    cr0 (by decide), cr0 (by decide), cr0 (by decide), takeReset_eflags s p, rfl, rfl, rfl, rfl, fun q hq => ?_, rfl, fun b i => ?_,
    rfl, rfl, rfl, rfl, rfl, rfl, rfl, rfl, rfl, rfl⟩
  · rw [takeReset_seg_get s p hq]
    exact ⟨rfl, rfl, rfl⟩
  · rw [takeReset_entry]
    exact ⟨rfl, rfl⟩

/-! ## The model's own start -/

/-- The model's own start is what a RESET with its parameters leaves, so what every RESET establishes holds in it. -/
theorem takeReset_reset : State.reset.takeReset ResetParams.default = State.reset := rfl

theorem generalKnowledge_wf : TrLayout.generalKnowledge.wf = true := by decide

/-- Settles O60: the invariants of O57 to O59 are those that every RESET establishes. -/
theorem invariantsAtReset : Obligations.InvariantsAtReset := by
  have mode := takeReset_modeKept State.reset .default
  have tlb := takeReset_unwrittenInvalid State.reset .default
  have cs := takeReset_codeSegmentShape State.reset .default
  rw [takeReset_reset] at mode tlb cs
  obtain ⟨paging, cpl⟩ := mode
  exact ⟨reset_mem_wf, paging, cpl, tlb, cs, generalKnowledge_wf⟩

/-! ## After a change of PE or PG (R299) -/

/-- With nothing from outside and no REP MOVS under way, a step begins with the fetch. -/
theorem beginStep_of_undisturbed {s : State} (hu : Undisturbed s) : beginStep s = s.beginInstr := by
  obtain ⟨hrun, hreset, hint, hrep⟩ := hu
  simp [beginStep, hreset, hrun, interrupt_none hint, State.goOn, hrep]

/-- While the queue is stale, a step executes what it fetches if that is a JMP and refuses it otherwise. -/
theorem step_of_fetch_stale {s : State} {i : Instr} (hu : Undisturbed s) (hs : s.prefetchStale = true) (hf : s.fetch = .ok i) :
    step s = if isJmp i then exec i (s.entering i) else .refused .prefetchStale := by
  simp only [step, beginStep_of_undisturbed hu, State.beginInstr, hf, hs]
  cases isJmp i with
  | true => rfl
  | false => rfl

/-- The four forms that count as the JMP (R137; 92_eei_decisions.md D17). -/
theorem isJmp_iff {i : Instr} : isJmp i = true ↔
    (∃ h rel, i = .jmpRel8 h rel) ∨ (∃ h rel, i = .jmpRel h rel) ∨ (∃ h o q, i = .jmpFar h o q) ∨ ∃ h m, i = .jmpFarMem h m := by
  constructor
  · intro hj
    cases i with
    | jmpRel8 h rel => exact .inl ⟨h, rel, rfl⟩
    | jmpRel h rel => exact .inr (.inl ⟨h, rel, rfl⟩)
    | jmpFar h o q => exact .inr (.inr (.inl ⟨h, o, q, rfl⟩))
    | jmpFarMem h m => exact .inr (.inr (.inr ⟨h, m, rfl⟩))
    | _ => exact nomatch hj
  · rintro (⟨h, rel, rfl⟩ | ⟨h, rel, rfl⟩ | ⟨h, o, q, rfl⟩ | ⟨h, m, rfl⟩) <;> rfl

/-- A JMP is not the instruction that takes more than one step, so its step ends the hold-off. -/
theorem entering_of_isJmp {i : Instr} (hj : isJmp i = true) (s : State) : s.entering i = s.endHoldOff :=
  entering_last (by rintro g wide rfl; exact nomatch hj)

/-- A far transfer that goes through discards the queue; it raises nothing, so no shutdown leaves the queue stale. -/
theorem IsFar.prefetchStale {i : Instr} {s t : State} (hi : IsFar i) (e : exec i s = .next t) : t.prefetchStale = false := by
  obtain ⟨off, sel, u, rfl, -⟩ := hi.next e
  rfl

/-- Every JMP that goes through discards the queue (R137, R300). -/
theorem prefetchStale_of_isJmp {i : Instr} {s t : State} (hj : isJmp i = true) (e : exec i s = .next t) : t.prefetchStale = false := by
  obtain ⟨h, rel, rfl⟩ | ⟨h, rel, rfl⟩ | ⟨h, o, q, rfl⟩ | ⟨h, m, rfl⟩ := isJmp_iff.mp hj
  · obtain rfl : jumpNear h s _ _ = t := Host.Outcome.next.inj e
    rfl
  · obtain rfl : jumpNear h s _ _ = t := Host.Outcome.next.inj e
    rfl
  · exact (IsFar.jmp h o q).prefetchStale e
  · exact (IsFar.jmpMem h m).prefetchStale e

/-! ## The change of PE or PG (R151, R157) -/

theorem Quiet.pg {s t : State} (h : Quiet s t) : t.pg = s.pg := by
  have hcr0 : t.cr0 = s.cr0 := congrArg SystemView.cr0 h.sys
  rw [State.pg, hcr0, State.pg]

theorem Quiet.prefetchStale {s t : State} (h : Quiet s t) : t.prefetchStale = s.prefetchStale :=
  congrArg SystemView.prefetchStale h.sys

theorem staleAfterCr0_of_change {s : State} {v : DWord} (h : v.getLsbD 0 ≠ s.pe ∨ v.getLsbD 31 ≠ s.pg) : staleAfterCr0 s v = true := by
  simp only [staleAfterCr0, Bool.or_eq_true, bne_iff_ne]
  obtain hpe | hpg := h
  · exact .inl (.inr hpe.symm)
  · exact .inr hpg.symm

/-- A special update that changes PE or PG is the write of CR0, which makes the queue stale; all others leave CR0 as it was. -/
theorem Special.stale_of_change {i : Instr} {s t : State} (h : Special s i t) (changed : t.pe ≠ s.pe ∨ t.pg ≠ s.pg) :
    t.prefetchStale = true := by
  have unchanged (hcr0 : t.cr0 = s.cr0) : t.prefetchStale = true := by
    simp [State.pe, State.pg, hcr0] at changed
  cases h with
  | cr0Written h r hp hpg hpe => exact staleAfterCr0_of_change changed
  | segLoaded h sr rm v => exact unchanged (congrArg SystemView.cr0 (noteSsLoad_sys sr (s.setSeg sr v)).1)
  | _ => exact unchanged rfl

/-- An instruction that changes PE or PG leaves the queue stale. -/
theorem exec_stale_of_change {i : Instr} {s t : State} (e : exec i s = .next t) (changed : t.pe ≠ s.pe ∨ t.pg ≠ s.pg) :
    t.prefetchStale = true := by
  obtain ⟨u, hu, hq⟩ := exec_effect e
  rw [hq.pe, hq.pg] at changed
  rw [hq.prefetchStale]
  exact hu.stale_of_change changed

/-- Settles O8: by the prefetch rule of the step, by what each JMP leaves, and by the one instruction that writes CR0. -/
theorem prefetchRule : Obligations.PrefetchRule := by
  refine ⟨fun s i hu hs hf => ⟨fun other => ?_, fun jmp => ?_⟩, fun s t h r e changed => exec_stale_of_change e changed⟩
  · obtain ⟨short, near, far, farMem⟩ := other
    have hj : ¬ isJmp i = true := fun hj => by
      obtain ⟨h, rel, e⟩ | ⟨h, rel, e⟩ | ⟨h, o, q, e⟩ | ⟨h, m, e⟩ := isJmp_iff.mp hj
      · exact short h rel e
      · exact near h rel e
      · exact far h o q e
      · exact farMem h m e
    rw [step_of_fetch_stale hu hs hf, if_neg hj]
  · have hj : isJmp i = true := isJmp_iff.mpr jmp
    have run : step s = exec i s.endHoldOff := by
      rw [step_of_fetch_stale hu hs hf, if_pos hj, entering_of_isJmp hj]
    exact ⟨run, fun t ht => prefetchStale_of_isJmp hj (run.symm.trans ht)⟩

end Sys2Proof.Machine
